-- ==== Sys2Proof/Word.lean ====
section
/-! DEFINITION. The value types of the engine: bytes, words, register indexes and immediate fields. -/

namespace Sys2Proof

/-- An 8-bit value: a general register, a timer, a memory byte (00_scope R8). -/
abbrev Byte := BitVec 8

/-- A 16-bit value: an instruction word, `I`, `PC`, a return address (00_scope R8). -/
abbrev Word := BitVec 16

/-- A 12-bit address field `nnn` (30_encoding R91). -/
abbrev Addr := BitVec 12

/-- A 4-bit immediate `n` (30_encoding R91). -/
abbrev Nibble := BitVec 4

/-- The index of a general register V0 to VF (10_state R21). -/
abbrev Reg := Fin 16

/-- VF, general register 15, in its role as flag register F (10_state R23). -/
abbrev regF : Reg := 15

end Sys2Proof
end

