-- ==== Sys2Proof/Syntax.lean ====
section
/-! DEFINITION. The instructions: one constructor per row of spec/opcode_table.json, in the order of 30_encoding R96,
with the operand fields already extracted (30_encoding R95). -/

namespace Sys2Proof

/-- The 35 instructions of 30_encoding R96. -/
inductive Instr where
  /-- `SYS addr` (40_flow R121). -/
  | sys (nnn : Addr)
  /-- `CLS` (42_display R171). -/
  | cls
  /-- `RET` (40_flow R122). -/
  | ret
  /-- `JP addr` (40_flow R123). -/
  | jp (nnn : Addr)
  /-- `CALL addr` (40_flow R124). -/
  | call (nnn : Addr)
  /-- `SE Vx, byte` (40_flow R125). -/
  | seImm (x : Reg) (kk : Byte)
  /-- `SNE Vx, byte` (40_flow R126). -/
  | sneImm (x : Reg) (kk : Byte)
  /-- `SE Vx, Vy` (40_flow R127). -/
  | seReg (x y : Reg)
  /-- `LD Vx, byte` (41_alu R142). -/
  | ldImm (x : Reg) (kk : Byte)
  /-- `ADD Vx, byte` (41_alu R143). -/
  | addImm (x : Reg) (kk : Byte)
  /-- `LD Vx, Vy` (41_alu R144). -/
  | ldReg (x y : Reg)
  /-- `OR Vx, Vy` (41_alu R145). -/
  | orReg (x y : Reg)
  /-- `AND Vx, Vy` (41_alu R146). -/
  | andReg (x y : Reg)
  /-- `XOR Vx, Vy` (41_alu R147). -/
  | xorReg (x y : Reg)
  /-- `ADD Vx, Vy` (41_alu R148). -/
  | addReg (x y : Reg)
  /-- `SUB Vx, Vy` (41_alu R149). -/
  | sub (x y : Reg)
  /-- `SHR Vx, Vy`, the second operand optional in the assembler (41_alu R150). -/
  | shr (x y : Reg)
  /-- `SUBN Vx, Vy` (41_alu R151). -/
  | subn (x y : Reg)
  /-- `SHL Vx, Vy`, the second operand optional in the assembler (41_alu R152). -/
  | shl (x y : Reg)
  /-- `SNE Vx, Vy` (40_flow R128). -/
  | sneReg (x y : Reg)
  /-- `LD I, addr` (44_index_memory R211). -/
  | ldI (nnn : Addr)
  /-- `JP V0, addr` (40_flow R129). -/
  | jpV0 (nnn : Addr)
  /-- `RND Vx, byte` (41_alu R153). -/
  | rnd (x : Reg) (kk : Byte)
  /-- `DRW Vx, Vy, nibble` (42_display R174). -/
  | drw (x y : Reg) (n : Nibble)
  /-- `SKP Vx` (43_keypad_timers R191). -/
  | skp (x : Reg)
  /-- `SKNP Vx` (43_keypad_timers R192). -/
  | sknp (x : Reg)
  /-- `LD Vx, DT` (43_keypad_timers R194). -/
  | ldVxDT (x : Reg)
  /-- `LD Vx, K` (43_keypad_timers R193). -/
  | ldVxK (x : Reg)
  /-- `LD DT, Vx` (43_keypad_timers R195). -/
  | ldDTVx (x : Reg)
  /-- `LD ST, Vx` (43_keypad_timers R196). -/
  | ldSTVx (x : Reg)
  /-- `ADD I, Vx` (44_index_memory R212). -/
  | addI (x : Reg)
  /-- `LD F, Vx` (44_index_memory R213). -/
  | ldF (x : Reg)
  /-- `LD B, Vx` (44_index_memory R214). -/
  | ldB (x : Reg)
  /-- `LD [I], Vx` (44_index_memory R215). -/
  | storeRegs (x : Reg)
  /-- `LD Vx, [I]` (44_index_memory R216). -/
  | loadRegs (x : Reg)
deriving DecidableEq, Repr

/-- What a 16-bit word decodes to: an instruction or the explicit variant that carries the whole word
(30_encoding R95). -/
inductive Decoded where
  | instr (i : Instr)
  | unknown (w : Word)
deriving DecidableEq, Repr

/-- Why a byte sequence gives no instruction: a word outside the opcode map (30_encoding R98), or fewer than the two
bytes an instruction has (30_encoding R90; the engine's own fetch never yields that, 20_memory R63). -/
inductive Reject where
  | unknown (w : Word)
  | truncated
deriving DecidableEq, Repr

end Sys2Proof
end

