-- ==== Sys2Proof/WellFormed.lean ====
section
/-! DEFINITION. The one check the types of Syntax.lean do not make: `SYS addr` has no encoding for the two addresses
whose words are CLS and RET (30_encoding R103). -/

namespace Sys2Proof

/-- The instruction is one the decoder can yield: a `SYS` whose word is not 0x00E0 (CLS) or 0x00EE (RET), or any
other instruction with any field values (30_encoding R96, R103). -/
def Instr.wellFormed : Instr → Bool
  | .sys nnn => nnn != 0x0E0#12 && nnn != 0x0EE#12
  | .cls | .ret | .jp _ | .call _ | .seImm _ _ | .sneImm _ _ | .seReg _ _ | .ldImm _ _ | .addImm _ _ | .ldReg _ _
  | .orReg _ _ | .andReg _ _ | .xorReg _ _ | .addReg _ _ | .sub _ _ | .shr _ _ | .subn _ _ | .shl _ _ | .sneReg _ _
  | .ldI _ | .jpV0 _ | .rnd _ _ | .drw _ _ _ | .skp _ | .sknp _ | .ldVxDT _ | .ldVxK _ | .ldDTVx _ | .ldSTVx _
  | .addI _ | .ldF _ | .ldB _ | .storeRegs _ | .loadRegs _ => true

end Sys2Proof
end

