-- ==== Sys2Proof/Decode.lean ====
section
/-! DEFINITION. The fields of an instruction word, the decoder of 30_encoding R94, the opcode rows of R96 and, after
them, the encoder written from the same rows. -/

namespace Sys2Proof

/-- `op = w[15:12]` (30_encoding R91). -/
def Word.op (w : Word) : BitVec 4 := w.extractLsb' 12 4

/-- `x = w[11:8]` (30_encoding R91). -/
def Word.x (w : Word) : Reg := (w.extractLsb' 8 4).toFin

/-- `y = w[7:4]` (30_encoding R91). -/
def Word.y (w : Word) : Reg := (w.extractLsb' 4 4).toFin

/-- `n = w[3:0]` (30_encoding R91). -/
def Word.n (w : Word) : Nibble := w.extractLsb' 0 4

/-- `kk = w[7:0]` (30_encoding R91). -/
def Word.kk (w : Word) : Byte := w.extractLsb' 0 8

/-- `nnn = w[11:0]` (30_encoding R91). -/
def Word.nnn (w : Word) : Addr := w.extractLsb' 0 12

/-- Family 0x0: the two fixed words win, every other word is SYS (30_encoding R94, R103). -/
def decodeFamily0 (w : Word) : Decoded :=
  if w = 0x00E0#16 then .instr .cls
  else if w = 0x00EE#16 then .instr .ret
  else .instr (.sys (Word.nnn w))

/-- Family 0x8: sub-dispatch on the bottom nibble (30_encoding R94). -/
def decodeFamily8 (w : Word) : Decoded :=
  if Word.n w = 0x0#4 then .instr (.ldReg (Word.x w) (Word.y w))
  else if Word.n w = 0x1#4 then .instr (.orReg (Word.x w) (Word.y w))
  else if Word.n w = 0x2#4 then .instr (.andReg (Word.x w) (Word.y w))
  else if Word.n w = 0x3#4 then .instr (.xorReg (Word.x w) (Word.y w))
  else if Word.n w = 0x4#4 then .instr (.addReg (Word.x w) (Word.y w))
  else if Word.n w = 0x5#4 then .instr (.sub (Word.x w) (Word.y w))
  else if Word.n w = 0x6#4 then .instr (.shr (Word.x w) (Word.y w))
  else if Word.n w = 0x7#4 then .instr (.subn (Word.x w) (Word.y w))
  else if Word.n w = 0xE#4 then .instr (.shl (Word.x w) (Word.y w))
  else .unknown w

/-- Family 0xE: sub-dispatch on the bottom byte (30_encoding R94). -/
def decodeFamilyE (w : Word) : Decoded :=
  if Word.kk w = 0x9E#8 then .instr (.skp (Word.x w))
  else if Word.kk w = 0xA1#8 then .instr (.sknp (Word.x w))
  else .unknown w

/-- Family 0xF: sub-dispatch on the bottom byte (30_encoding R94). -/
def decodeFamilyF (w : Word) : Decoded :=
  if Word.kk w = 0x07#8 then .instr (.ldVxDT (Word.x w))
  else if Word.kk w = 0x0A#8 then .instr (.ldVxK (Word.x w))
  else if Word.kk w = 0x15#8 then .instr (.ldDTVx (Word.x w))
  else if Word.kk w = 0x18#8 then .instr (.ldSTVx (Word.x w))
  else if Word.kk w = 0x1E#8 then .instr (.addI (Word.x w))
  else if Word.kk w = 0x29#8 then .instr (.ldF (Word.x w))
  else if Word.kk w = 0x33#8 then .instr (.ldB (Word.x w))
  else if Word.kk w = 0x55#8 then .instr (.storeRegs (Word.x w))
  else if Word.kk w = 0x65#8 then .instr (.loadRegs (Word.x w))
  else .unknown w

/-- The decoder: a pure, total function of the word, dispatching on the top nibble (30_encoding R94, R95). The strict
test `n = 0` in families 0x5 and 0x9 is the spec's decision D13 (log 13); the patterns are the spec's decision D29
(log 15). -/
def decode (w : Word) : Decoded :=
  if Word.op w = 0x0#4 then decodeFamily0 w
  else if Word.op w = 0x1#4 then .instr (.jp (Word.nnn w))
  else if Word.op w = 0x2#4 then .instr (.call (Word.nnn w))
  else if Word.op w = 0x3#4 then .instr (.seImm (Word.x w) (Word.kk w))
  else if Word.op w = 0x4#4 then .instr (.sneImm (Word.x w) (Word.kk w))
  else if Word.op w = 0x5#4 then
    if Word.n w = 0x0#4 then .instr (.seReg (Word.x w) (Word.y w)) else .unknown w
  else if Word.op w = 0x6#4 then .instr (.ldImm (Word.x w) (Word.kk w))
  else if Word.op w = 0x7#4 then .instr (.addImm (Word.x w) (Word.kk w))
  else if Word.op w = 0x8#4 then decodeFamily8 w
  else if Word.op w = 0x9#4 then
    if Word.n w = 0x0#4 then .instr (.sneReg (Word.x w) (Word.y w)) else .unknown w
  else if Word.op w = 0xA#4 then .instr (.ldI (Word.nnn w))
  else if Word.op w = 0xB#4 then .instr (.jpV0 (Word.nnn w))
  else if Word.op w = 0xC#4 then .instr (.rnd (Word.x w) (Word.kk w))
  else if Word.op w = 0xD#4 then .instr (.drw (Word.x w) (Word.y w) (Word.n w))
  else if Word.op w = 0xE#4 then decodeFamilyE w
  else decodeFamilyF w

/-- The word of two bytes as they lie in memory: the first byte is the more significant half (20_memory R63). -/
def wordOfBytes (hi lo : Byte) : Word := hi ++ lo

/-- Decoding any byte sequence: an instruction with the bytes after it, or a rejection by name. -/
def decodeBytes : List Byte → Except Reject (Instr × List Byte)
  | hi :: lo :: rest =>
    match decode (wordOfBytes hi lo) with
    | .instr i => .ok (i, rest)
    | .unknown w => .error (.unknown w)
  | [_] | [] => .error .truncated

/-- The more significant byte of a word, which lies at the lower address (20_memory R63). -/
def Word.hiByte (w : Word) : Byte := w.extractLsb' 8 8

/-- The less significant byte of a word, which lies at the higher address (20_memory R63). -/
def Word.loByte (w : Word) : Byte := w.extractLsb' 0 8

/-- The instruction word with the low `nbits` bits of `w` and zeros above (numbered as spec/opcode_table.json numbers
them; every row of it has 16 bits). -/
def wordOfTableBits (nbits w : Nat) : Word := BitVec.ofNat 16 (w % 2 ^ nbits)

/-- What the decoder reads from an instruction whose bits are `w`, laid out in memory order. -/
def decodeTableWord (nbits w : Nat) : Option Instr :=
  match decodeBytes [Word.hiByte (wordOfTableBits nbits w), Word.loByte (wordOfTableBits nbits w)] with
  | .ok (i, _) => some i
  | .error _ => none

/-- The six formats of 30_encoding R92. -/
inductive Format where
  | fixed
  | nnn
  | xkk
  | xy
  | xyn
  | x
deriving DecidableEq, Repr

/-- A row of the opcode map: a word belongs to the row when its bits under `mask` are those of `pattern`
(30_encoding R96, R103). -/
structure OpcodeRow where
  format : Format
  mask : Word
  pattern : Word
deriving DecidableEq, Repr

/-- The row of an instruction in the opcode map (30_encoding R96). -/
def Instr.row : Instr → OpcodeRow
  | .sys _ => ⟨.nnn, 0xF000, 0x0000⟩
  | .cls => ⟨.fixed, 0xFFFF, 0x00E0⟩
  | .ret => ⟨.fixed, 0xFFFF, 0x00EE⟩
  | .jp _ => ⟨.nnn, 0xF000, 0x1000⟩
  | .call _ => ⟨.nnn, 0xF000, 0x2000⟩
  | .seImm _ _ => ⟨.xkk, 0xF000, 0x3000⟩
  | .sneImm _ _ => ⟨.xkk, 0xF000, 0x4000⟩
  | .seReg _ _ => ⟨.xy, 0xF00F, 0x5000⟩
  | .ldImm _ _ => ⟨.xkk, 0xF000, 0x6000⟩
  | .addImm _ _ => ⟨.xkk, 0xF000, 0x7000⟩
  | .ldReg _ _ => ⟨.xy, 0xF00F, 0x8000⟩
  | .orReg _ _ => ⟨.xy, 0xF00F, 0x8001⟩
  | .andReg _ _ => ⟨.xy, 0xF00F, 0x8002⟩
  | .xorReg _ _ => ⟨.xy, 0xF00F, 0x8003⟩
  | .addReg _ _ => ⟨.xy, 0xF00F, 0x8004⟩
  | .sub _ _ => ⟨.xy, 0xF00F, 0x8005⟩
  | .shr _ _ => ⟨.xy, 0xF00F, 0x8006⟩
  | .subn _ _ => ⟨.xy, 0xF00F, 0x8007⟩
  | .shl _ _ => ⟨.xy, 0xF00F, 0x800E⟩
  | .sneReg _ _ => ⟨.xy, 0xF00F, 0x9000⟩
  | .ldI _ => ⟨.nnn, 0xF000, 0xA000⟩
  | .jpV0 _ => ⟨.nnn, 0xF000, 0xB000⟩
  | .rnd _ _ => ⟨.xkk, 0xF000, 0xC000⟩
  | .drw _ _ _ => ⟨.xyn, 0xF000, 0xD000⟩
  | .skp _ => ⟨.x, 0xF0FF, 0xE09E⟩
  | .sknp _ => ⟨.x, 0xF0FF, 0xE0A1⟩
  | .ldVxDT _ => ⟨.x, 0xF0FF, 0xF007⟩
  | .ldVxK _ => ⟨.x, 0xF0FF, 0xF00A⟩
  | .ldDTVx _ => ⟨.x, 0xF0FF, 0xF015⟩
  | .ldSTVx _ => ⟨.x, 0xF0FF, 0xF018⟩
  | .addI _ => ⟨.x, 0xF0FF, 0xF01E⟩
  | .ldF _ => ⟨.x, 0xF0FF, 0xF029⟩
  | .ldB _ => ⟨.x, 0xF0FF, 0xF033⟩
  | .storeRegs _ => ⟨.x, 0xF0FF, 0xF055⟩
  | .loadRegs _ => ⟨.x, 0xF0FF, 0xF065⟩

/-- The word of format NNN (30_encoding R92): `{op, nnn}`. -/
def wordNNN (op : BitVec 4) (nnn : Addr) : Word := op ++ nnn

/-- The word of formats XKK and X, whose bottom byte is an immediate or a sub-opcode (30_encoding R92): `{op, x, kk}`. -/
def wordXKK (op : BitVec 4) (x : Reg) (kk : Byte) : Word := op ++ (BitVec.ofFin x : BitVec 4) ++ kk

/-- The word of formats XY and XYN, whose bottom nibble is a sub-opcode or an immediate (30_encoding R92):
`{op, x, y, n}`. -/
def wordXYN (op : BitVec 4) (x y : Reg) (n : Nibble) : Word :=
  op ++ (BitVec.ofFin x : BitVec 4) ++ (BitVec.ofFin y : BitVec 4) ++ n

/-- The encoder: the word of an instruction, from the opcode map of 30_encoding R96. -/
def encode : Instr → Word
  | .sys nnn => wordNNN 0x0#4 nnn
  | .cls => 0x00E0
  | .ret => 0x00EE
  | .jp nnn => wordNNN 0x1#4 nnn
  | .call nnn => wordNNN 0x2#4 nnn
  | .seImm x kk => wordXKK 0x3#4 x kk
  | .sneImm x kk => wordXKK 0x4#4 x kk
  | .seReg x y => wordXYN 0x5#4 x y 0x0#4
  | .ldImm x kk => wordXKK 0x6#4 x kk
  | .addImm x kk => wordXKK 0x7#4 x kk
  | .ldReg x y => wordXYN 0x8#4 x y 0x0#4
  | .orReg x y => wordXYN 0x8#4 x y 0x1#4
  | .andReg x y => wordXYN 0x8#4 x y 0x2#4
  | .xorReg x y => wordXYN 0x8#4 x y 0x3#4
  | .addReg x y => wordXYN 0x8#4 x y 0x4#4
  | .sub x y => wordXYN 0x8#4 x y 0x5#4
  | .shr x y => wordXYN 0x8#4 x y 0x6#4
  | .subn x y => wordXYN 0x8#4 x y 0x7#4
  | .shl x y => wordXYN 0x8#4 x y 0xE#4
  | .sneReg x y => wordXYN 0x9#4 x y 0x0#4
  | .ldI nnn => wordNNN 0xA#4 nnn
  | .jpV0 nnn => wordNNN 0xB#4 nnn
  | .rnd x kk => wordXKK 0xC#4 x kk
  | .drw x y n => wordXYN 0xD#4 x y n
  | .skp x => wordXKK 0xE#4 x 0x9E#8
  | .sknp x => wordXKK 0xE#4 x 0xA1#8
  | .ldVxDT x => wordXKK 0xF#4 x 0x07#8
  | .ldVxK x => wordXKK 0xF#4 x 0x0A#8
  | .ldDTVx x => wordXKK 0xF#4 x 0x15#8
  | .ldSTVx x => wordXKK 0xF#4 x 0x18#8
  | .addI x => wordXKK 0xF#4 x 0x1E#8
  | .ldF x => wordXKK 0xF#4 x 0x29#8
  | .ldB x => wordXKK 0xF#4 x 0x33#8
  | .storeRegs x => wordXKK 0xF#4 x 0x55#8
  | .loadRegs x => wordXKK 0xF#4 x 0x65#8

/-- The bytes of an instruction in memory order, the high byte first (20_memory R63). -/
def encodeBytes (i : Instr) : List Byte := [Word.hiByte (encode i), Word.loByte (encode i)]

end Sys2Proof
end

