-- ==== Sys2Proof/Config.lean ====
section
/-! DEFINITION. What an implementation fixes and what the spec leaves open: the configuration record of `reset(cfg)`
(10_state R35), the open parameters of 00_scope R6 as constants without a body, and the free value of `RND`. -/

namespace Sys2Proof

/-- `cfg.shift_quirk`: which register is the source of SHR and SHL (10_state R35). -/
inductive ShiftQuirk where
  | vx
  | vy
deriving DecidableEq, Repr, Inhabited

/-- `cfg.draw_wrap_quirk`: what happens to sprite pixels past the right or bottom edge (10_state R35). -/
inductive DrawWrapQuirk where
  | wrap
  | clip
deriving DecidableEq, Repr, Inhabited

/-- The value of the two on/off toggles of the configuration record (10_state R35). -/
inductive Toggle where
  | on
  | off
deriving DecidableEq, Repr, Inhabited

/-- The configuration record `cfg`, the engine's only control register (10_state R35). -/
structure Cfg where
  /-- First address of the program image and reset value of PC. -/
  loadOffset : Word
  /-- Source register of SHR and SHL. -/
  shiftQuirk : ShiftQuirk
  /-- Whether the block moves add x+1 to I. -/
  storeLoadIncrementQuirk : Toggle
  /-- Whether sprite pixels past an edge wrap or are dropped. -/
  drawWrapQuirk : DrawWrapQuirk
  /-- Whether `ADD I, Vx` writes VF. -/
  addIOverflowQuirk : Toggle
deriving DecidableEq, Repr

/-- `shift_quirk` of the configuration that `State.reset` takes: no default in the spec (D5), so a constant that
nothing evaluates. Mark: DESIGN CHOICE, safe (log 1). -/
opaque Config.shiftQuirk : ShiftQuirk

/-- `store_load_increment_quirk` of the configuration that `State.reset` takes (D5). Mark: DESIGN CHOICE, safe (log 1). -/
opaque Config.storeLoadIncrementQuirk : Toggle

/-- `draw_wrap_quirk` of the configuration that `State.reset` takes (D5). Mark: DESIGN CHOICE, safe (log 1). -/
opaque Config.drawWrapQuirk : DrawWrapQuirk

/-- The configuration that `State.reset` takes: the source's two defaults (00_scope R6: load offset 0x200,
`add_i_overflow_quirk` off) and the three free quirk fields. Every other configuration is reached by
`State.resetWith`. -/
def Config.cfg : Cfg where
  loadOffset := 0x200
  shiftQuirk := Config.shiftQuirk
  storeLoadIncrementQuirk := Config.storeLoadIncrementQuirk
  drawWrapQuirk := Config.drawWrapQuirk
  addIOverflowQuirk := .off

/-- `FONT_BASE`, the address of glyph 0: open, with 0 <= FONT_BASE <= 0x1B0 (00_scope R6, 20_memory R69, D3); the
bound is the type's. Mark: DESIGN CHOICE, safe (log 2). -/
opaque Config.fontBase : Fin 433

/-- The byte of the k-th draw of `RND`: any value 0 to 255, a free input of the step (41_alu R153, 10_state R45, U7).
Mark: DESIGN CHOICE, safe (log 5). -/
opaque Config.randomByte : Nat → Byte

end Sys2Proof
end

