-- ==== Sys2Proof/Machine/State.lean ====
section
/-! DEFINITION. The complete state of the engine (10_state R20), the reasons a transaction can stop, and the state
after reset (10_state R43). -/

namespace Sys2Proof.Machine

/-- The fatal faults, complete list (60_exceptions R231). -/
inductive FatalFault where
  | pcOutOfBounds
  | stackOverflow
  | stackUnderflow
deriving DecidableEq, Repr

/-- `STATUS` (10_state R33). -/
inductive Status where
  | running
  | halted (cause : FatalFault)
deriving DecidableEq, Repr

/-- One event `UnknownOpcode(addr, word)` of the diagnostic channel (60_exceptions R236). -/
structure DiagEvent where
  addr : Word
  word : Word
deriving DecidableEq, Repr

/-- The memory `MEM` (10_state R29): the listed bytes, in the canonical form of `Memory.wf`; what an unlisted address
reads as is `Memory.unlisted`. -/
abbrev Memory := List Host.Cell

/-- The pixel grid `FB[y][x]`, 32 rows of 64 (10_state R30). -/
abbrev Display := Vector (Vector Bool 64) 32

/-- Every piece of state of 10_state R20, the diagnostic channel of R42, and one counter of the model's own. -/
structure State where
  /-- V0 to VF; VF is also the flag register (R21, R23). -/
  v : Vector Byte 16
  /-- The index register I (R24). -/
  i : Word
  /-- The program counter (R25). -/
  pc : Word
  /-- The 8-bit stack pointer, which equals the number of entries in use, 0 to 16 (R27). Mark: DESIGN CHOICE of the
  type alone, safe (log 11). -/
  sp : Fin 17
  /-- The return addresses STACK[0] to STACK[15] (R27). -/
  stack : Vector Word 16
  /-- The delay counter (R28). -/
  dt : Byte
  /-- The sound counter (R28). -/
  st : Byte
  /-- The 4096-byte address space (R29). -/
  mem : Memory
  /-- The display (R30). -/
  fb : Display
  /-- The key states, true = pressed (R31). -/
  key : Vector Bool 16
  /-- `awaiting_key` (R32). -/
  await : Bool
  /-- RUNNING or HALTED(cause) (R33). -/
  status : Status
  /-- Whether a program image has been loaded since reset (R34). -/
  loaded : Bool
  /-- The configuration record (R35). -/
  cfg : Cfg
  /-- The diagnostic channel, oldest event first (R42, 60_exceptions R236). Mark: UNVERIFIED, safe (log 12). -/
  diag : List DiagEvent
  /-- The model's own: how many random bytes RND has drawn, so that each draw is a fresh free value (R45,
  41_alu R153). Mark: DESIGN CHOICE, safe (log 5). -/
  draws : Nat
deriving DecidableEq, Repr

/-- The faults a step can end in, beside a next state: none. The engine's three fatal faults are next states with
`STATUS = HALTED(cause)` (60_exceptions R232, R239), and no other condition faults (60_exceptions R231). Raised by
nobody; safe (log 6). -/
inductive Fault where
deriving DecidableEq, Repr

/-- Why the model gives no meaning: either an instruction that has none yet, or a request of the driver that the spec
says is no transaction of the engine. -/
inductive Refusal where
  /-- Raised by an arm of `exec` whose instruction has no meaning yet; safe. No arm does. -/
  | notModelled (mnemonic : String)
  /-- Raised by `step` when no image has been loaded since reset (10_state R39, 70_reset_and_hazards R276, D30);
  safe (log 8). -/
  | stepBeforeLoad
  /-- Raised by the transaction `load` when an image is loaded already (70_reset_and_hazards R276, D30); safe (log 8). -/
  | secondLoad
  /-- Raised by the transaction `reset` for a load offset outside 0x200 to 0xFFF (70_reset_and_hazards R278, D6);
  safe (log 29). -/
  | illegalConfig
  /-- Raised by the transaction `set_key` for an index above 15 (10_state R41, D26); safe (log 29). -/
  | keyOutOfRange
deriving DecidableEq, Repr

/-- The state after `reset(cfg)` (10_state R43, 70_reset_and_hazards R271). Memory lists nothing: it reads as
`Memory.unlisted`, the reset contents. The counter `draws` starts at a DESIGN CHOICE 0 (log 5). -/
def State.resetWith (c : Cfg) : State where
  v := Vector.replicate 16 0
  i := 0
  pc := c.loadOffset
  sp := 0
  stack := Vector.replicate 16 0
  dt := 0
  st := 0
  mem := []
  fb := Vector.replicate 32 (Vector.replicate 64 false)
  key := Vector.replicate 16 false
  await := false
  status := .running
  loaded := false
  cfg := c
  diag := []
  draws := 0

/-- The machine right after reset, with the source's default load offset and `add_i_overflow_quirk`, and the quirks
that have no default free (`Config.cfg`; log 1). -/
def State.reset : State := State.resetWith Config.cfg

end Sys2Proof.Machine
end

