-- ==== Sys2Proof/Machine/Font.lean ====
section
/-! DEFINITION. The hexadecimal font: FONT_DATA (20_memory R70) and where its glyphs lie (20_memory R69). -/

namespace Sys2Proof.Machine

/-- `FONT_DATA`, 16 glyphs of 5 bytes, the top row first (20_memory R70, the spec's decision D4 from general
knowledge). Mark: PRESUMED, unsafe (log 3). -/
def fontData : List Byte :=
  [0xF0, 0x90, 0x90, 0x90, 0xF0] ++ [0x20, 0x60, 0x20, 0x20, 0x70] ++
  [0xF0, 0x10, 0xF0, 0x80, 0xF0] ++ [0xF0, 0x10, 0xF0, 0x10, 0xF0] ++
  [0x90, 0x90, 0xF0, 0x10, 0x10] ++ [0xF0, 0x80, 0xF0, 0x10, 0xF0] ++
  [0xF0, 0x80, 0xF0, 0x90, 0xF0] ++ [0xF0, 0x10, 0x20, 0x40, 0x40] ++
  [0xF0, 0x90, 0xF0, 0x90, 0xF0] ++ [0xF0, 0x90, 0xF0, 0x10, 0xF0] ++
  [0xF0, 0x90, 0xF0, 0x90, 0x90] ++ [0xE0, 0x90, 0xE0, 0x90, 0xE0] ++
  [0xF0, 0x80, 0x80, 0x80, 0xF0] ++ [0xE0, 0x90, 0x90, 0x90, 0xE0] ++
  [0xF0, 0x80, 0xF0, 0x80, 0xF0] ++ [0xF0, 0x80, 0xF0, 0x80, 0x80]

/-- The address of the glyph of digit `d` (20_memory R69, 44_index_memory R213). -/
def glyphAddr (d : Fin 16) : Nat := Config.fontBase.val + 5 * d.val

end Sys2Proof.Machine
end

