-- ==== Sys2Proof/Machine/Memory.lean ====
section
/-! DEFINITION. The address space MEM: 4096 bytes (20_memory R60), held as the list of the bytes that differ from the
reset contents. -/

namespace Sys2Proof.Machine

/-- The number of bytes of the address space (00_scope R6). -/
def memSize : Nat := 4096

/-- What an address that is not listed reads as: the contents after reset, the font at FONT_BASE inside the reserved
area 0x000 to 0x1FF and 0x00 everywhere else (20_memory R61, 70_reset_and_hazards R271, R272). Mark: UNVERIFIED,
unsafe (log 32, log 4). -/
def Memory.unlisted (a : Nat) : Byte :=
  if a < 0x200 then
    if Config.fontBase.val ≤ a then fontData.getD (a - Config.fontBase.val) 0 else 0
  else 0

/-- The byte listed for an address, if one is. -/
def Memory.lookup (a : Nat) : Memory → Option Byte
  | [] => none
  | (k, b) :: m => if k = a then some b else Memory.lookup a m

/-- The byte at an address (20_memory R73: the most recent write, or the reset value if there was none). -/
def Memory.read (m : Memory) (a : Nat) : Byte := (Memory.lookup a m).getD (Memory.unlisted a)

/-- Lists a byte for an address, in the place of an entry for the same address. -/
def Memory.insert (a : Nat) (b : Byte) : Memory → Memory
  | [] => [(a, b)]
  | (k, c) :: m => if a < k then (a, b) :: (k, c) :: m else if a = k then (a, b) :: m else (k, c) :: Memory.insert a b m

/-- Takes an address off the list. -/
def Memory.erase (a : Nat) : Memory → Memory
  | [] => []
  | (k, c) :: m => if k = a then Memory.erase a m else (k, c) :: Memory.erase a m

/-- Writes one byte; writing what an unlisted address reads as takes the address off the list. -/
def Memory.write (m : Memory) (a : Nat) (b : Byte) : Memory :=
  if b = Memory.unlisted a then Memory.erase a m else Memory.insert a b m

/-- The canonical form from an address on: addresses strictly rising and inside the address space, no entry equal to
what an unlisted address reads as. -/
def Memory.wfFrom (lo : Nat) : Memory → Bool
  | [] => true
  | (k, b) :: m => decide (lo ≤ k) && decide (k < memSize) && (b != Memory.unlisted k) && Memory.wfFrom (k + 1) m

/-- The memory is in its one canonical form. -/
def Memory.wf (m : Memory) : Bool := Memory.wfFrom 0 m

/-- Writes consecutive bytes from an address on, as `load` does (70_reset_and_hazards R273). -/
def Memory.writeBytes (m : Memory) (a : Nat) : List Byte → Memory
  | [] => m
  | b :: bs => Memory.writeBytes (Memory.write m a b) (a + 1) bs

end Sys2Proof.Machine
end

