-- ==== Sys2Proof/Machine/Ops.lean ====
section
/-! DEFINITION. The named operations over the state that every meaning is written with, and the taking of a fatal
fault. -/

namespace Sys2Proof.Machine

/-- What a transaction answers. -/
abbrev Result := Host.Outcome State Fault Refusal

/-- `V[x]` (00_scope R9). -/
def State.getV (s : State) (x : Reg) : Byte := s.v[x.val]

/-- `V[x] <- b` (00_scope R9, 10_state R21). -/
def State.setV (s : State) (x : Reg) (b : Byte) : State := { s with v := s.v.set x.val b }

/-- `I <- w` (10_state R24). -/
def State.setI (s : State) (w : Word) : State := { s with i := w }

/-- `PC <- w` (10_state R25). -/
def State.setPc (s : State) (w : Word) : State := { s with pc := w }

/-- `DT <- b` (10_state R28). -/
def State.setDt (s : State) (b : Byte) : State := { s with dt := b }

/-- `ST <- b` (10_state R28). -/
def State.setSt (s : State) (b : Byte) : State := { s with st := b }

/-- `AWAIT <- b` (10_state R32). -/
def State.setAwait (s : State) (b : Bool) : State := { s with await := b }

/-- A new pixel grid (10_state R30). -/
def State.setFb (s : State) (fb : Display) : State := { s with fb := fb }

/-- `MemRead(addr, 1)`: the address is reduced modulo 4096 (00_scope R9, 20_memory R64). -/
def State.memRead (s : State) (addr : Nat) : Byte := Memory.read s.mem (addr % memSize)

/-- `MemWrite(addr, 1, b)`: the address is reduced modulo 4096 (00_scope R9, 20_memory R64). -/
def State.memWrite (s : State) (addr : Nat) (b : Byte) : State :=
  { s with mem := Memory.write s.mem (addr % memSize) b }

/-- `Fetch(a)`: the two bytes at `a` and `a + 1`, the one at the lower address more significant, without wrap
(20_memory R63). -/
def State.fetch (s : State) (a : Nat) : Word := wordOfBytes (Memory.read s.mem a) (Memory.read s.mem (a + 1))

/-- PC lets a step fetch both bytes: `PC <= 0xFFE` (10_state R25, 60_exceptions R233; D8, log 26). -/
def State.canFetch (s : State) : Bool := decide (s.pc.toNat ≤ 0xFFE)

/-- The advance of PC by 2 that a step makes before it executes, and that a taken skip makes again (10_state R39,
40_flow R120). -/
def State.advance (s : State) : State := { s with pc := s.pc + 2 }

/-- `if cond: PC <- PC + 2` (40_flow R120). -/
def State.skipIf (s : State) (cond : Bool) : State := { s with pc := if cond then s.pc + 2 else s.pc }

/-- `STACK[SP] <- w; SP <- SP + 1`, for a stack that is not full (40_flow R124). -/
def State.push (s : State) (w : Word) (h : s.sp.val < 16) : State :=
  { s with stack := s.stack.set s.sp.val w h, sp := ⟨s.sp.val + 1, by omega⟩ }

/-- `SP <- SP - 1; PC <- STACK[SP]`, for a stack that is not empty (40_flow R122). -/
def State.popPc (s : State) (h : 0 < s.sp.val) : State :=
  { s with sp := ⟨s.sp.val - 1, by omega⟩, pc := s.stack[s.sp.val - 1]'(by omega) }

/-- Taking a fatal fault, `raise cause`: STATUS latches the cause and the step ends; nothing else is written, so PC is
what the fetch phase left (60_exceptions R232; D9, log 27). There is no return from it: only the driver's `reset`
leaves the halted state (60_exceptions R241). -/
def State.raise (s : State) (cause : FatalFault) : State := { s with status := .halted cause }

/-- `diag UnknownOpcode(a, w)`: one event is appended to the diagnostic channel (00_scope R9, 60_exceptions R236). -/
def State.report (s : State) (a w : Word) : State := { s with diag := s.diag ++ [⟨a, w⟩] }

/-- The byte that `draw()` yields now: a free value (41_alu R153; log 5). -/
def State.randomByte (s : State) : Byte := Config.randomByte s.draws

/-- The draw is used up, so that the next one is another free value (41_alu R153, U7; log 5). -/
def State.countDraw (s : State) : State := { s with draws := s.draws + 1 }

/-- The numeric codes of the fatal faults (60_exceptions R231; D10, log 33). -/
def FatalFault.code : FatalFault → Nat
  | .pcOutOfBounds => 1
  | .stackOverflow => 2
  | .stackUnderflow => 3

end Sys2Proof.Machine
end

