-- ==== Sys2Proof/Machine/Operands.lean ====
section
/-! DEFINITION. The operand forms: zero-extended immediates, the shift source, the low nibble of a register, the one
addressing mode, the BCD digits, the keys and the sprite in memory. -/

namespace Sys2Proof.Machine

/-- `zext_16(nnn)` (30_encoding R93). -/
def zextAddr (nnn : Addr) : Word := nnn.setWidth 16

/-- `zext_16(b)` (00_scope R8). -/
def zextByte (b : Byte) : Word := b.setWidth 16

/-- The source of SHR and SHL: V[x] or V[y], by `cfg.shift_quirk` (41_alu R150, R152). -/
def State.shiftSource (s : State) (x y : Reg) : Byte :=
  match s.cfg.shiftQuirk with
  | .vx => s.getV x
  | .vy => s.getV y

/-- `b mod 16`, as a key index or a digit (43_keypad_timers R190, 44_index_memory R213; D17, log 20). -/
def lowNibble (b : Byte) : Fin 16 := Fin.ofNat 16 b.toNat

/-- The effective address of offset k: `(I + k) mod 4096`, the sum untruncated (20_memory R64, 44_index_memory R210). -/
def State.effAddr (s : State) (k : Nat) : Nat := (s.i.toNat + k) % memSize

/-- `v div 100` (44_index_memory R214). -/
def bcdHundreds (b : Byte) : Byte := BitVec.ofNat 8 (b.toNat / 100)

/-- `(v div 10) mod 10` (44_index_memory R214). -/
def bcdTens (b : Byte) : Byte := BitVec.ofNat 8 (b.toNat / 10 % 10)

/-- `v mod 10` (44_index_memory R214). -/
def bcdOnes (b : Byte) : Byte := BitVec.ofNat 8 (b.toNat % 10)

/-- `KEY[V[x] mod 16]` (43_keypad_timers R190). -/
def State.keyAt (s : State) (x : Reg) : Bool := s.key[(lowNibble (s.getV x)).val]

/-- The smallest k with `KEY[k] = 1`, if there is one (43_keypad_timers R193; D16, log 19). -/
def State.lowestKey (s : State) : Option (Fin 16) := (List.finRange 16).find? (fun k => s.key[k.val])

/-- The row bytes of a sprite of height n: `MemRead(I + r, 1)` for r = 0 to n-1 (42_display R172, R174). -/
def State.spriteRows (s : State) (n : Nibble) : List Byte :=
  (List.range n.toNat).map (fun r => s.memRead (s.i.toNat + r))

/-- `I <- (I + x + 1) mod 65536` when `cfg.store_load_increment_quirk = on`, after a block move of V0 to V[x]
(44_index_memory R215, R216; D19, log 22). -/
def State.incrementI (s : State) (x : Reg) : State :=
  { s with i := match s.cfg.storeLoadIncrementQuirk with
      | .on => BitVec.ofNat 16 (s.i.toNat + x.val + 1)
      | .off => s.i }

end Sys2Proof.Machine
end

