-- ==== Sys2Proof/Machine/Flags.lean ====
section
/-! DEFINITION. The flag computations (10_state R23) and the one order of result and flag writes (41_alu R141). -/

namespace Sys2Proof.Machine

/-- A flag as the byte VF receives: 1 or 0 (10_state R23). -/
def flagByte (b : Bool) : Byte := if b then 1 else 0

/-- Carry of ADD: `a + b > 255` (41_alu R148). -/
def carryOf (a b : Byte) : Bool := decide (255 < a.toNat + b.toNat)

/-- Not-borrow of `a - b`: `a >= b` (41_alu R149, R151). -/
def notBorrowOf (a b : Byte) : Bool := decide (b.toNat ≤ a.toNat)

/-- The bit SHR shifts out: bit 0 of the source (41_alu R150). -/
def lsbOf (a : Byte) : Bool := a.getLsbD 0

/-- The bit SHL shifts out: bit 7 of the source (41_alu R152). -/
def msbOf (a : Byte) : Bool := a.getLsbD 7

/-- Overflow of ADD I: the exact sum left the 12-bit address range (44_index_memory R212; D18, log 21). -/
def indexOverflowOf (i : Word) (b : Byte) : Bool := decide (0xFFF < i.toNat + b.toNat)

/-- `V[0xF] <- flag`. -/
def State.setFlag (s : State) (flag : Bool) : State := s.setV regF (flagByte flag)

/-- The result goes to V[x] first and the flag to VF last, so that the flag stays when x = 0xF (41_alu R141; D15,
log 18). Both values are the caller's, computed from the old state. -/
def State.writeResult (s : State) (x : Reg) (result : Byte) (flag : Bool) : State := (s.setV x result).setFlag flag

end Sys2Proof.Machine
end

