-- ==== Sys2Proof/Machine/Alu.lean ====
section
/-! DEFINITION. Register load, arithmetic, logic, shift and random (41_alu). -/

namespace Sys2Proof.Machine

/-- `LD Vx, byte` (41_alu R142). -/
def execLdImm (x : Reg) (kk : Byte) (s : State) : Result := .next (s.setV x kk)

/-- `ADD Vx, byte`: wraps modulo 256, no carry recorded (41_alu R143). -/
def execAddImm (x : Reg) (kk : Byte) (s : State) : Result := .next (s.setV x (s.getV x + kk))

/-- `LD Vx, Vy` (41_alu R144). -/
def execLdReg (x y : Reg) (s : State) : Result := .next (s.setV x (s.getV y))

/-- `OR Vx, Vy` (41_alu R145). -/
def execOrReg (x y : Reg) (s : State) : Result := .next (s.setV x (s.getV x ||| s.getV y))

/-- `AND Vx, Vy` (41_alu R146). -/
def execAndReg (x y : Reg) (s : State) : Result := .next (s.setV x (s.getV x &&& s.getV y))

/-- `XOR Vx, Vy` (41_alu R147). -/
def execXorReg (x y : Reg) (s : State) : Result := .next (s.setV x (s.getV x ^^^ s.getV y))

/-- `ADD Vx, Vy` with carry into VF (41_alu R148). -/
def execAddReg (x y : Reg) (s : State) : Result :=
  .next (s.writeResult x (s.getV x + s.getV y) (carryOf (s.getV x) (s.getV y)))

/-- `SUB Vx, Vy` with not-borrow into VF (41_alu R149). -/
def execSub (x y : Reg) (s : State) : Result :=
  .next (s.writeResult x (s.getV x - s.getV y) (notBorrowOf (s.getV x) (s.getV y)))

/-- `SHR Vx, Vy`: logical shift right by one of the quirk's source, the bit shifted out into VF (41_alu R150). -/
def execShr (x y : Reg) (s : State) : Result :=
  .next (s.writeResult x (s.shiftSource x y >>> 1) (lsbOf (s.shiftSource x y)))

/-- `SUBN Vx, Vy`: V[y] - V[x] with not-borrow into VF (41_alu R151). -/
def execSubn (x y : Reg) (s : State) : Result :=
  .next (s.writeResult x (s.getV y - s.getV x) (notBorrowOf (s.getV y) (s.getV x)))

/-- `SHL Vx, Vy`: shift left by one of the quirk's source, the bit shifted out into VF (41_alu R152). -/
def execShl (x y : Reg) (s : State) : Result :=
  .next (s.writeResult x (s.shiftSource x y <<< 1) (msbOf (s.shiftSource x y)))

/-- `RND Vx, byte`: a free byte AND kk (41_alu R153; D23, log 5). -/
def execRnd (x : Reg) (kk : Byte) (s : State) : Result := .next ((s.setV x (s.randomByte &&& kk)).countDraw)

end Sys2Proof.Machine
end

