-- ==== Sys2Proof/Machine/Flow.lean ====
section
/-! DEFINITION. Control flow: SYS, RET, JP, CALL, SE, SNE, JP V0 (40_flow). On entry PC is already `a + 2`
(40_flow R120). -/

namespace Sys2Proof.Machine

/-- `SYS addr`: nothing (40_flow R121; D12, log 14). -/
def execSys (_nnn : Addr) (s : State) : Result := .next s

/-- `RET`: pop the call stack into PC, or StackUnderflow (40_flow R122). -/
def execRet (s : State) : Result :=
  if h : s.sp.val = 0 then .next (s.raise .stackUnderflow) else .next (s.popPc (by omega))

/-- `JP addr` (40_flow R123). -/
def execJp (nnn : Addr) (s : State) : Result := .next (s.setPc (zextAddr nnn))

/-- `CALL addr`: push the advanced PC and jump, or StackOverflow (40_flow R124). -/
def execCall (nnn : Addr) (s : State) : Result :=
  if h : s.sp.val = 16 then .next (s.raise .stackOverflow)
  else .next ((s.push s.pc (by omega)).setPc (zextAddr nnn))

/-- `SE Vx, byte` (40_flow R125; D25, log 16). -/
def execSeImm (x : Reg) (kk : Byte) (s : State) : Result := .next (s.skipIf (s.getV x == kk))

/-- `SNE Vx, byte` (40_flow R126; D25, log 16). -/
def execSneImm (x : Reg) (kk : Byte) (s : State) : Result := .next (s.skipIf (s.getV x != kk))

/-- `SE Vx, Vy` (40_flow R127; D25, log 16). -/
def execSeReg (x y : Reg) (s : State) : Result := .next (s.skipIf (s.getV x == s.getV y))

/-- `SNE Vx, Vy` (40_flow R128; D25, log 16). -/
def execSneReg (x y : Reg) (s : State) : Result := .next (s.skipIf (s.getV x != s.getV y))

/-- `JP V0, addr`: the 16-bit sum, not reduced modulo 4096 (40_flow R129; D14, log 17). -/
def execJpV0 (nnn : Addr) (s : State) : Result := .next (s.setPc (zextAddr nnn + zextByte (s.getV 0)))

end Sys2Proof.Machine
end

