-- ==== Sys2Proof/Machine/IndexMemory.lean ====
section
/-! DEFINITION. The index-register and memory instructions (44_index_memory). -/

namespace Sys2Proof.Machine

/-- `LD I, addr` (44_index_memory R211). -/
def execLdI (nnn : Addr) (s : State) : Result := .next (s.setI (zextAddr nnn))

/-- The flag write of `ADD I, Vx`: VF is written last, and only when the quirk is on (44_index_memory R212). -/
def State.addIFlag (s : State) (flag : Bool) : State :=
  s.setV regF (match s.cfg.addIOverflowQuirk with
    | .on => flagByte flag
    | .off => s.getV regF)

/-- `ADD I, Vx`: I keeps 16 bits (44_index_memory R212; D18, log 21). -/
def execAddI (x : Reg) (s : State) : Result :=
  .next ((s.setI (s.i + zextByte (s.getV x))).addIFlag (indexOverflowOf s.i (s.getV x)))

/-- `LD F, Vx`: the glyph address of the digit (44_index_memory R213; D17, log 20; D3, log 2). -/
def execLdF (x : Reg) (s : State) : Result := .next (s.setI (BitVec.ofNat 16 (glyphAddr (lowNibble (s.getV x)))))

/-- `LD B, Vx`: three BCD digits, most significant first; I is not changed (44_index_memory R214; D21, log 24). -/
def execLdB (x : Reg) (s : State) : Result :=
  .next (((s.memWrite (s.i.toNat + 0) (bcdHundreds (s.getV x))).memWrite (s.i.toNat + 1)
    (bcdTens (s.getV x))).memWrite (s.i.toNat + 2) (bcdOnes (s.getV x)))

/-- The stores of V0, V1, ... of a block move, in increasing order, `count` of them (44_index_memory R215). -/
def State.storeBlock (s : State) (count : Nat) : State :=
  (List.range count).foldl (fun t k => t.memWrite (s.i.toNat + k) (s.getV (Fin.ofNat 16 k))) s

/-- The loads of V0, V1, ... of a block move, in increasing order, `count` of them (44_index_memory R216). -/
def State.loadBlock (s : State) (count : Nat) : State :=
  (List.range count).foldl (fun t k => t.setV (Fin.ofNat 16 k) (s.memRead (s.i.toNat + k))) s

/-- `LD [I], Vx`: x+1 registers, x the index in the word (44_index_memory R215; D19, log 22). -/
def execStoreRegs (x : Reg) (s : State) : Result := .next ((s.storeBlock (x.val + 1)).incrementI x)

/-- `LD Vx, [I]` (44_index_memory R216; D19, log 22). -/
def execLoadRegs (x : Reg) (s : State) : Result := .next ((s.loadBlock (x.val + 1)).incrementI x)

end Sys2Proof.Machine
end

