-- ==== Sys2Proof/Machine/KeypadTimers.lean ====
section
/-! DEFINITION. The keypad and timer instructions (43_keypad_timers). -/

namespace Sys2Proof.Machine

/-- `SKP Vx` (43_keypad_timers R191; D25, log 16). -/
def execSkp (x : Reg) (s : State) : Result := .next (s.skipIf (s.keyAt x))

/-- `SKNP Vx` (43_keypad_timers R192; D25, log 16). -/
def execSknp (x : Reg) (s : State) : Result := .next (s.skipIf (!s.keyAt x))

/-- `LD Vx, DT` (43_keypad_timers R194; D22, log 25). -/
def execLdVxDT (x : Reg) (s : State) : Result := .next (s.setV x s.dt)

/-- `LD Vx, K`: the lowest pressed key, or wait by putting PC back on this instruction (43_keypad_timers R193; D16,
log 19). -/
def execLdVxK (x : Reg) (s : State) : Result :=
  match s.lowestKey with
  | some k => .next ((s.setV x (BitVec.ofNat 8 k.val)).setAwait false)
  | none => .next ((s.setPc (s.pc - 2)).setAwait true)

/-- `LD DT, Vx` (43_keypad_timers R195; D22, log 25). -/
def execLdDTVx (x : Reg) (s : State) : Result := .next (s.setDt (s.getV x))

/-- `LD ST, Vx` (43_keypad_timers R196; D22, log 25). -/
def execLdSTVx (x : Reg) (s : State) : Result := .next (s.setSt (s.getV x))

end Sys2Proof.Machine
end

