-- ==== Sys2Proof/Machine/Draw.lean ====
section
/-! DEFINITION. The draw unit (42_display R173). -/

namespace Sys2Proof.Machine

/-- The pixel in column x of row y (10_state R30). -/
def Display.get (fb : Display) (x : Fin 64) (y : Fin 32) : Bool := (fb[y.val])[x.val]

/-- `FB[y][x] <- FB[y][x] XOR 1`. -/
def Display.flip (fb : Display) (x : Fin 64) (y : Fin 32) : Display :=
  fb.set y.val ((fb[y.val]).set x.val (!(Display.get fb x y)))

/-- The grid with every pixel unset (42_display R171). -/
def Display.blank : Display := Vector.replicate 32 (Vector.replicate 64 false)

/-- The grid pixel that a sprite pixel lands on, or none when it is dropped (42_display R173). -/
def pixelTarget (q : DrawWrapQuirk) (px py : Nat) : Option (Fin 64 × Fin 32) :=
  match q with
  | .wrap => some (Fin.ofNat 64 px, Fin.ofNat 32 py)
  | .clip => if h : px < 64 ∧ py < 32 then some (⟨px, h.1⟩, ⟨py, h.2⟩) else none

/-- One sprite bit XORed onto the grid; the flag collects whether a set pixel became unset (42_display R173). -/
def drawBit (q : DrawWrapQuirk) (px py : Nat) (bit : Bool) (acc : Display × Bool) : Display × Bool :=
  match pixelTarget q px py with
  | none => acc
  | some (tx, ty) => if bit then (Display.flip acc.1 tx ty, acc.2 || Display.get acc.1 tx ty) else acc

/-- One sprite row: bit 7 is the leftmost pixel (42_display R172, R173; D20, log 23). -/
def drawRow (q : DrawWrapQuirk) (x0 py : Nat) (row : Byte) (acc : Display × Bool) : Display × Bool :=
  (List.range 8).foldl (fun a c => drawBit q (x0 + c) py (row.getLsbD (7 - c)) a) acc

/-- The rows of a sprite from top to bottom (42_display R173). -/
def drawRows (q : DrawWrapQuirk) (x0 py : Nat) : List Byte → Display × Bool → Display × Bool
  | [], acc => acc
  | row :: rows, acc => drawRows q x0 (py + 1) rows (drawRow q x0 py row acc)

/-- `draw(x0, y0, rows)`: the grid after it, and whether any pixel went from set to unset (42_display R173). -/
def draw (q : DrawWrapQuirk) (x0 y0 : Nat) (rows : List Byte) (fb : Display) : Display × Bool :=
  drawRows q x0 y0 rows (fb, false)

end Sys2Proof.Machine
end

