-- ==== Sys2Proof/Machine/Video.lean ====
section
/-! DEFINITION. The display instructions CLS and DRW (42_display). -/

namespace Sys2Proof.Machine

/-- `CLS` (42_display R171). -/
def execCls (s : State) : Result := .next (s.setFb Display.blank)

/-- What `draw` does for a DRW: the origin always wraps, the rows come from memory at I (42_display R174; D20,
log 23). -/
def State.drawn (s : State) (x y : Reg) (n : Nibble) : Display × Bool :=
  draw s.cfg.drawWrapQuirk ((s.getV x).toNat % 64) ((s.getV y).toNat % 32) (s.spriteRows n) s.fb

/-- `DRW Vx, Vy, nibble`: the grid first, the collision flag last (42_display R174). -/
def execDrw (x y : Reg) (n : Nibble) (s : State) : Result :=
  .next ((s.setFb (s.drawn x y n).1).setFlag (s.drawn x y n).2)

end Sys2Proof.Machine
end

