-- ==== Sys2Proof/Machine/Cycle.lean ====
section
/-! DEFINITION. The transaction `step` (10_state R39) and the placing of one instruction where it fetches. -/

namespace Sys2Proof.Machine

/-- The execution of an unknown word fetched from `a`: one diagnostic event, no other effect (30_encoding R99; D11,
log 12). -/
def execUnknown (a w : Word) (s : State) : Result := .next (s.report a w)

/-- Decode and execute one fetched word; `s` is the state before the step (10_state R39). -/
def State.runWord (s : State) (w : Word) : Result :=
  match decode w with
  | .instr i => exec i s.advance
  | .unknown u => execUnknown s.pc u s.advance

/-- `step`: refused before a load, no change when halted, the fetch check, then fetch, advance PC, decode and execute
(10_state R39, 60_exceptions R239, R233). -/
def State.cycle (s : State) : Result :=
  if s.loaded then
    match s.status with
    | .halted _ => .next s
    | .running => if s.canFetch then s.runWord (s.fetch s.pc.toNat) else .next (s.raise .pcOutOfBounds)
  else .refused .stepBeforeLoad

/-- Stores a word at `a`, the more significant byte at the lower address (20_memory R63). -/
def State.placeWord (s : State) (a : Nat) (w : Word) : State :=
  { s with mem := Memory.write (Memory.write s.mem a (Word.hiByte w)) (a + 1) (Word.loByte w) }

/-- Where the next step fetches: PC, or 0x200 when PC lets no step fetch (log 9). -/
def State.fetchSlot (s : State) : Word := if s.canFetch then s.pc else 0x200

/-- The state whose next step fetches and runs the word: the word is stored at the fetch address, an image counts as
loaded and STATUS is RUNNING, since `step` executes nothing otherwise (10_state R39; log 9). -/
def State.readyToRun (s : State) (w : Word) : State :=
  { s.placeWord s.fetchSlot.toNat w with pc := s.fetchSlot, loaded := true, status := .running }

end Sys2Proof.Machine
end

