-- ==== Sys2Proof/Machine/Step.lean ====
section
/-! DEFINITION. The step of the machine and the placing of a table word where it fetches. -/

namespace Sys2Proof.Machine

/-- The transaction `step` (10_state R39). -/
def step (s : State) : Host.Outcome State Fault Refusal := s.cycle

/-- `s` with the instruction whose bits are `w` stored where `step` fetches next (log 9). -/
def State.withFetchWord (s : State) (nbits w : Nat) : State := s.readyToRun (wordOfTableBits nbits w)

end Sys2Proof.Machine
end

