-- ==== Sys2Proof/Machine/Driver.lean ====
section
/-! DEFINITION. The driver's side: the five transactions (00_scope R7, 10_state R36 to R41), any interleaving of them,
and the outputs (10_state R42). -/

namespace Sys2Proof.Machine

/-- A legal configuration: `0x200 <= load_offset <= 0xFFF` (70_reset_and_hazards R278; D6, log 29). -/
def cfgLegal (c : Cfg) : Bool := decide (0x200 ≤ c.loadOffset.toNat) && decide (c.loadOffset.toNat ≤ 0xFFF)

/-- `reset(cfg)`, accepted in every state, refused for an illegal configuration (70_reset_and_hazards R271, R278). The
free values already drawn stay drawn: the model's own counter is not set back (log 5). -/
def State.doReset (s : State) (c : Cfg) : Result :=
  if cfgLegal c then .next { State.resetWith c with draws := s.draws } else .refused .illegalConfig

/-- A valid program image for a load offset: not empty and no larger than the address space minus the offset
(20_memory R71, 70_reset_and_hazards R274). -/
def imageValid (c : Cfg) (image : List Byte) : Bool :=
  decide (1 ≤ image.length) && decide (image.length ≤ memSize - c.loadOffset.toNat)

/-- `load(image)`: once per reset; an invalid image is rejected with no state change at all, a valid one is copied to
the load offset (70_reset_and_hazards R273, R274, R276; log 10). -/
def State.doLoad (s : State) (image : List Byte) : Result :=
  if s.loaded then .refused .secondLoad
  else if imageValid s.cfg image then
    .next { s with mem := Memory.writeBytes s.mem s.cfg.loadOffset.toNat image, loaded := true }
  else .next s

/-- One counter of `tick`: decremented toward zero, never below it (10_state R40). -/
def countDown (b : Byte) : Byte := if 0 < b.toNat then b - 1 else b

/-- `tick`, accepted in every state (10_state R40). -/
def State.tick (s : State) : State := { s with dt := countDown s.dt, st := countDown s.st }

/-- `set_key(k, pressed)` for k in 0 to 15, accepted in every state; another index is refused (10_state R41). -/
def State.doSetKey (s : State) (k : Nat) (pressed : Bool) : Result :=
  if h : k < 16 then .next { s with key := s.key.set k pressed h } else .refused .keyOutOfRange

/-- The five transactions (00_scope R7). -/
inductive Transaction where
  | reset (c : Cfg)
  | load (image : List Byte)
  | step
  | tick
  | setKey (k : Nat) (pressed : Bool)
deriving DecidableEq, Repr

/-- What a transaction does to the state. -/
def transact (t : Transaction) (s : State) : Result :=
  match t with
  | .reset c => s.doReset c
  | .load image => s.doLoad image
  | .step => Sys2Proof.Machine.step s
  | .tick => .next s.tick
  | .setKey k pressed => s.doSetKey k pressed

/-- A finite interleaving of transactions, one after the other, up to the first that is refused (10_state R36). -/
def runAll : List Transaction → State → Result
  | [], s => .next s
  | t :: ts, s =>
    match transact t s with
    | .next s' => runAll ts s'
    | .fault f => .fault f
    | .refused r => .refused r

/-- The display view: the whole grid (10_state R42). -/
def State.displayView (s : State) : Display := s.fb

/-- `sound_active`: ST > 0 (10_state R42). -/
def State.soundActive (s : State) : Bool := decide (0 < s.st.toNat)

/-- `awaiting_key`: AWAIT = 1 (10_state R42). -/
def State.awaitingKey (s : State) : Bool := s.await

/-- The output `status` (10_state R42). -/
def State.statusOut (s : State) : Status := s.status

/-- The output `DIAG`: the events reported so far (10_state R42, 60_exceptions R236). -/
def State.diagOut (s : State) : List DiagEvent := s.diag

end Sys2Proof.Machine
end

