-- ==== Sys2Proof/Safety.lean ====
section
/-! DEFINITION. The terms the statements use: what a transition leaves unchanged, which registers an instruction may
write, what a sprite covers, what a safe run is, and the invariant of the engine. -/

namespace Sys2Proof.Machine

/-! ### Frames -/

/-- The pieces of state other than the general registers and the memory (10_state R20). -/
inductive Part where
  | i
  | pc
  | sp
  | stack
  | dt
  | st
  | fb
  | key
  | await
  | status
  | loaded
  | cfg
  | diag
  | draws
deriving DecidableEq, Repr

/-- The piece of state is the same in both states. -/
def Part.same (p : Part) (s t : State) : Prop :=
  match p with
  | .i => t.i = s.i
  | .pc => t.pc = s.pc
  | .sp => t.sp = s.sp
  | .stack => t.stack = s.stack
  | .dt => t.dt = s.dt
  | .st => t.st = s.st
  | .fb => t.fb = s.fb
  | .key => t.key = s.key
  | .await => t.await = s.await
  | .status => t.status = s.status
  | .loaded => t.loaded = s.loaded
  | .cfg => t.cfg = s.cfg
  | .diag => t.diag = s.diag
  | .draws => t.draws = s.draws

/-- From `s` to `t` nothing changes but the registers in `regs`, the memory bytes in `stored` and the pieces of state
in `parts`. -/
structure Frame (regs : List Reg) (stored : Nat → Prop) (parts : List Part) (s t : State) : Prop where
  /-- Every general register outside `regs` is unchanged. -/
  regsSame : ∀ r, r ∉ regs → t.getV r = s.getV r
  /-- Every byte outside the stored ones reads as before. -/
  bytesSame : ∀ a, ¬ stored a → Memory.read t.mem a = Memory.read s.mem a
  /-- Every other piece of state outside `parts` is unchanged. -/
  partsSame : ∀ p, p ∉ parts → p.same s t

/-- No byte of memory is stored to. -/
def noByte : Nat → Prop := fun _ => False

/-- The bytes of a store of `count` consecutive bytes through I: the effective addresses of the offsets below `count`
(20_memory R64, R67). -/
def storedThroughI (s : State) (count : Nat) : Nat → Prop := fun a => ∃ k, k < count ∧ a = s.effAddr k

end Sys2Proof.Machine

namespace Sys2Proof

open Machine

/-! ### The tables of what each instruction may write -/

/-- The general registers an instruction may write, the flag register among them (10_state R22, R23). -/
def Instr.writtenRegs (c : Cfg) : Instr → List Reg
  | .ldImm x _ | .addImm x _ | .ldReg x _ | .orReg x _ | .andReg x _ | .xorReg x _ | .rnd x _ | .ldVxDT x
  | .ldVxK x => [x]
  | .addReg x _ | .sub x _ | .shr x _ | .subn x _ | .shl x _ => [x, regF]
  | .drw _ _ _ => [regF]
  | .addI _ => if c.addIOverflowQuirk = .on then [regF] else []
  | .loadRegs x => (List.finRange 16).filter (fun r => r.val ≤ x.val)
  | .sys _ | .cls | .ret | .jp _ | .call _ | .seImm _ _ | .sneImm _ _ | .seReg _ _ | .sneReg _ _ | .ldI _ | .jpV0 _
  | .skp _ | .sknp _ | .ldDTVx _ | .ldSTVx _ | .ldF _ | .ldB _ | .storeRegs _ => []

/-- The instruction writes VF as a flag (10_state R23). -/
def Instr.writesFlag (c : Cfg) : Instr → Bool
  | .addReg _ _ | .sub _ _ | .shr _ _ | .subn _ _ | .shl _ _ | .drw _ _ _ => true
  | .addI _ => c.addIOverflowQuirk == .on
  | .sys _ | .cls | .ret | .jp _ | .call _ | .seImm _ _ | .sneImm _ _ | .seReg _ _ | .sneReg _ _ | .ldI _ | .jpV0 _
  | .ldImm _ _ | .addImm _ _ | .ldReg _ _ | .orReg _ _ | .andReg _ _ | .xorReg _ _ | .rnd _ _ | .ldVxDT _ | .ldVxK _
  | .skp _ | .sknp _ | .ldDTVx _ | .ldSTVx _ | .ldF _ | .ldB _ | .storeRegs _ | .loadRegs _ => false

/-- The memory bytes an instruction may store to (20_memory R67). -/
def Instr.storedBytes (s : State) : Instr → (Nat → Prop)
  | .ldB _ => storedThroughI s 3
  | .storeRegs x => storedThroughI s (x.val + 1)
  | .sys _ | .cls | .ret | .jp _ | .call _ | .seImm _ _ | .sneImm _ _ | .seReg _ _ | .sneReg _ _ | .ldI _ | .jpV0 _
  | .ldImm _ _ | .addImm _ _ | .ldReg _ _ | .orReg _ _ | .andReg _ _ | .xorReg _ _ | .addReg _ _ | .sub _ _ | .shr _ _
  | .subn _ _ | .shl _ _ | .rnd _ _ | .drw _ _ _ | .skp _ | .sknp _ | .ldVxDT _ | .ldVxK _ | .ldDTVx _ | .ldSTVx _
  | .addI _ | .ldF _ | .loadRegs _ => noByte

/-- The other pieces of state the execute phase of an instruction may write (10_state R20, R26). -/
def Instr.writtenParts : Instr → List Part
  | .cls | .drw _ _ _ => [.fb]
  | .ret => [.pc, .sp, .status]
  | .call _ => [.pc, .sp, .stack, .status]
  | .jp _ | .jpV0 _ | .seImm _ _ | .sneImm _ _ | .seReg _ _ | .sneReg _ _ | .skp _ | .sknp _ => [.pc]
  | .ldVxK _ => [.pc, .await]
  | .ldDTVx _ => [.dt]
  | .ldSTVx _ => [.st]
  | .ldI _ | .addI _ | .ldF _ | .storeRegs _ | .loadRegs _ => [.i]
  | .rnd _ _ => [.draws]
  | .sys _ | .ldImm _ _ | .addImm _ _ | .ldReg _ _ | .orReg _ _ | .andReg _ _ | .xorReg _ _ | .addReg _ _ | .sub _ _
  | .shr _ _ | .subn _ _ | .shl _ _ | .ldVxDT _ | .ldB _ => []

end Sys2Proof

namespace Sys2Proof.Machine

/-! ### Sprites -/

/-- The sprite pixel in column c of row r, drawn from the origin (x0, y0), lands on the grid pixel (X, Y)
(42_display R173). -/
def Lands (q : DrawWrapQuirk) (x0 y0 c r : Nat) (X : Fin 64) (Y : Fin 32) : Prop :=
  match q with
  | .wrap => (x0 + c) % 64 = X.val ∧ (y0 + r) % 32 = Y.val
  | .clip => x0 + c = X.val ∧ y0 + r = Y.val

/-- Some 1 bit of the sprite lands on the grid pixel (X, Y); column c of a row is its bit 7-c (42_display R172,
R173). -/
def Covers (q : DrawWrapQuirk) (x0 y0 : Nat) (rows : List Byte) (X : Fin 64) (Y : Fin 32) : Prop :=
  ∃ r c, r < rows.length ∧ c < 8 ∧ (rows.getD r 0).getLsbD (7 - c) = true ∧ Lands q x0 y0 c r X Y

/-- Some 1 bit of the sprite that DRW reads at I lands on the grid pixel (X, Y): the origin is (V[x] mod 64,
V[y] mod 32), row r is the byte at `(I + r) mod 4096` (42_display R172 to R174). -/
def SpriteCovers (s : State) (x y : Reg) (n : Nibble) (X : Fin 64) (Y : Fin 32) : Prop :=
  ∃ r c, r < n.toNat ∧ c < 8 ∧ (Memory.read s.mem (s.effAddr r)).getLsbD (7 - c) = true ∧
    Lands s.cfg.drawWrapQuirk ((s.getV x).toNat % 64) ((s.getV y).toNat % 32) c r X Y

/-! ### Runs -/

/-- Executing instructions one after the other, up to the first that gives no next state. -/
def execAll : List Instr → State → Result
  | [], s => .next s
  | i :: is, s =>
    match exec i s with
    | .next t => execAll is t
    | .fault f => .fault f
    | .refused r => .refused r

/-- A safe step: it answers a next state that is not halted (60_exceptions R239: a halted state is never a successful
end of a program). -/
def StepSafe (s : State) : Prop := ∃ t, step s = .next t ∧ t.status = .running

/-- The model's own end-of-run predicate: a jump to itself is about to execute (10_state R44). -/
def State.atSelfJump (s : State) : Bool :=
  s.loaded && s.status == .running && s.canFetch && decode (s.fetch s.pc.toNat) == .instr (.jp (s.pc.setWidth 12)) &&
    decide (s.pc.toNat < memSize)

/-! ### The invariant -/

/-- What a latched fault cause says of the state (60_exceptions R231, R232). -/
def FatalFault.evidence (c : FatalFault) (s : State) : Prop :=
  match c with
  | .pcOutOfBounds => 0xFFE < s.pc.toNat
  | .stackOverflow => s.sp.val = 16
  | .stackUnderflow => s.sp.val = 0

/-- The invariant of the engine: what holds of every state the driver can bring it to. -/
structure Inv (s : State) : Prop where
  /-- The memory is in its canonical form. -/
  memWf : Memory.wf s.mem = true
  /-- The largest value PC can take is 0x10FE (10_state R25). -/
  pcBound : s.pc.toNat ≤ 0x10FE
  /-- A pushed return address is at most 0x1000 (40_flow R122). -/
  stackBound : ∀ j : Fin 16, j.val < s.sp.val → (s.stack[j.val]).toNat ≤ 0x1000
  /-- While AWAIT is 1, PC rests on an `LD Vx, K` (10_state R32, 60_exceptions R248). -/
  awaitAtKeyWait : s.await = true → s.loaded = true ∧ s.status = .running ∧ s.canFetch = true ∧
    ∃ x, decode (s.fetch s.pc.toNat) = .instr (.ldVxK x)
  /-- A halted engine shows the condition of its cause (60_exceptions R231, R232). -/
  haltEvidence : ∀ c, s.status = .halted c → s.loaded = true ∧ c.evidence s
  /-- The diagnostic channel holds unknown words and addresses a fetch can have (30_encoding R99, 60_exceptions R236). -/
  diagUnknown : ∀ e, e ∈ s.diag → e.addr.toNat ≤ 0xFFE ∧ decode e.word = .unknown e.word
  /-- Before a load PC is still at the load offset (70_reset_and_hazards R273). -/
  unloadedPc : s.loaded = false → s.pc = s.cfg.loadOffset
  /-- The configuration is legal (70_reset_and_hazards R278). -/
  cfgOk : cfgLegal s.cfg = true

end Sys2Proof.Machine
end

