-- ==== Sys2Proof/Certificates/Slice0/Obligations.lean ====
section
/-! DEFINITION. The statements for the provers, in the order of the spec's files. `Frame regs stored parts s t` says
that nothing changes from `s` to `t` but the registers in `regs`, the bytes in `stored` and the pieces of state in
`parts`. In a statement about `exec i s`, `s` is the state after the fetch phase, so `s.pc` is the address of the
instruction plus 2 (40_flow R120). The words that stand in the statements are those of the rules' own Encoding lines; the
spec takes them from its opcode map R96 (its decision D29, log 15). -/

open Sys2Proof Sys2Proof.Machine

/-! ### Encoding (30_encoding) -/

/-- Decoding the word of a well-formed instruction gives the instruction back, with every operand at every value. The
patterns are the opcode map of R96 (the spec's decision D29, log 15). -/
def Obligations.DecodeOfEncode : Prop := ∀ i : Instr, i.wellFormed = true → decode (encode i) = .instr i

/-- A word that decodes to an instruction is the word of that instruction, and the instruction is well formed: each
word has one meaning (R94, R103). -/
def Obligations.EncodeOfDecode : Prop :=
  ∀ (w : Word) (i : Instr), decode w = .instr i → encode i = w ∧ i.wellFormed = true

/-- The unknown space is exactly the one R98 lists, and `Unknown` carries the whole word. The strict tests in families
0x5 and 0x9 are the spec's own decision D13 (log 13). -/
def Obligations.UnknownSpaceExact : Prop :=
  ∀ w u : Word, decode w = .unknown u ↔ u = w ∧
    (((Word.op w = 0x5#4 ∨ Word.op w = 0x9#4) ∧ Word.n w ≠ 0#4) ∨
      (Word.op w = 0x8#4 ∧ ((0x8 ≤ (Word.n w).toNat ∧ (Word.n w).toNat ≤ 0xD) ∨ Word.n w = 0xF#4)) ∨
      (Word.op w = 0xE#4 ∧ Word.kk w ≠ 0x9E#8 ∧ Word.kk w ≠ 0xA1#8) ∨
      (Word.op w = 0xF#4 ∧ Word.kk w ∉ ([0x07, 0x0A, 0x15, 0x18, 0x1E, 0x29, 0x33, 0x55, 0x65] : List Byte)))

/-- Words of the spec's decoder vectors decode to what the vectors say, one of each family (95_test_vectors 2.1). -/
def Obligations.VectorWordsDecode : Prop :=
  decode 0x00E1 = .instr (.sys 0x0E1) ∧ decode 0x2ABC = .instr (.call 0xABC) ∧
  decode 0x6A12 = .instr (.ldImm 0xA 0x12) ∧ decode 0x8AB5 = .instr (.sub 0xA 0xB) ∧
  decode 0xDAB5 = .instr (.drw 0xA 0xB 5) ∧ decode 0xE19E = .instr (.skp 1) ∧
  decode 0xF10A = .instr (.ldVxK 1) ∧ decode 0xF165 = .instr (.loadRegs 1) ∧ decode 0x5AB1 = .unknown 0x5AB1

/-! ### The step (10_state R39, 20_memory R63) -/

/-- Fetch is big-endian for every address up to 0xFFE and does not wrap: above it the step raises PcOutOfBounds; the
bytes 60 05 are `LD V0, 5` (R63). -/
def Obligations.FetchIsBigEndian : Prop :=
  (∀ (s : State) (a : Nat), a ≤ 0xFFE →
    (s.fetch a).toNat = (Memory.read s.mem a).toNat * 256 + (Memory.read s.mem (a + 1)).toNat) ∧
  (∀ s : State, s.loaded = true → s.status = .running → 0xFFE < s.pc.toNat →
    step s = .next (s.raise .pcOutOfBounds)) ∧
  (∀ (s : State) (a : Nat), a ≤ 0xFFE → Memory.read s.mem a = 0x60 → Memory.read s.mem (a + 1) = 0x05 →
    decode (s.fetch a) = .instr (.ldImm 0 5))

/-- A step runs the decoded instruction: the whole cycle of R39. Refused when no image is loaded; no change when
halted; PcOutOfBounds above 0xFFE; otherwise the instruction is executed with PC advanced by 2, or the unknown word is
reported with PC advanced by 2. -/
def Obligations.StepRunsDecodedInstruction : Prop :=
  ∀ s : State,
    (s.loaded = false → step s = .refused .stepBeforeLoad) ∧
    (∀ c, s.loaded = true → s.status = .halted c → step s = .next s) ∧
    (s.loaded = true → s.status = .running → 0xFFE < s.pc.toNat → step s = .next (s.raise .pcOutOfBounds)) ∧
    (∀ i, s.loaded = true → s.status = .running → s.pc.toNat ≤ 0xFFE →
      decode (s.fetch s.pc.toNat) = .instr i → step s = exec i { s with pc := s.pc + 2 }) ∧
    (∀ w, s.loaded = true → s.status = .running → s.pc.toNat ≤ 0xFFE →
      decode (s.fetch s.pc.toNat) = .unknown w →
        step s = .next { s with pc := s.pc + 2, diag := s.diag ++ [⟨s.pc, w⟩] })

/-- An unknown word executes as a no-op: PC moves on by 2, one event with the address and the fetched word is appended
to the diagnostic channel, nothing else changes (R99). What the event holds is the spec's own decision D11 (log 12). -/
def Obligations.UnknownWordIsNoOp : Prop :=
  ∀ (s : State) (w : Word), s.loaded = true → s.status = .running → s.pc.toNat ≤ 0xFFE →
    decode (s.fetch s.pc.toNat) = .unknown w →
    ∃ t, step s = .next t ∧ t.pc.toNat = s.pc.toNat + 2 ∧
      t.diag = s.diag ++ [⟨s.pc, s.fetch s.pc.toNat⟩] ∧ Frame [] noByte [.pc, .diag] s t

/-- Every step of a loaded engine answers a next state: no word and no state makes it stop in any other way (R100,
R231). -/
def Obligations.LoadedStepAnswers : Prop := ∀ s : State, s.loaded = true → ∃ t, step s = .next t

/-! ### Control flow (40_flow) -/

/-- `SYS addr` does nothing (R121, the spec's own decision D12, log 14). -/
def Obligations.SysIsNoOp : Prop :=
  ∀ (nnn : Addr) (s : State), ∃ t, exec (.sys nnn) s = .next t ∧ Frame [] noByte [] s t

/-- `RET` (word 00EE) pops the call stack into PC, or halts with StackUnderflow on an empty stack (R122, R235). -/
def Obligations.RetPopsOrUnderflows : Prop :=
  decode 0x00EE = .instr .ret ∧ ∀ s : State,
    (0 < s.sp.val → ∃ t, exec .ret s = .next t ∧ t.sp.val + 1 = s.sp.val ∧
      (∀ j : Fin 16, j.val + 1 = s.sp.val → t.pc = s.stack[j.val]) ∧ Frame [] noByte [.pc, .sp] s t) ∧
    (s.sp.val = 0 → ∃ t, exec .ret s = .next t ∧ t.status = .halted .stackUnderflow ∧
      Frame [] noByte [.status] s t)

/-- `JP addr` (word 1nnn) sets PC to nnn and changes nothing else; a target of 0xFFF makes the next step halt; a jump to
itself is an endless loop with no change per step (R123). -/
def Obligations.JumpSetsPc : Prop :=
  ∀ (nnn : Addr) (s : State), decode (wordNNN 0x1 nnn) = .instr (.jp nnn) ∧
    (∃ t, exec (.jp nnn) s = .next t ∧ t.pc.toNat = nnn.toNat ∧ Frame [] noByte [.pc] s t ∧
      (nnn = 0xFFF → t.loaded = true → t.status = .running → step t = .next (t.raise .pcOutOfBounds))) ∧
    (s.loaded = true → s.status = .running → s.pc.toNat = nnn.toNat → s.pc.toNat ≤ 0xFFE →
      decode (s.fetch s.pc.toNat) = .instr (.jp nnn) → step s = .next s)

/-- `CALL addr` (word 2nnn) pushes the advanced PC and jumps, or halts with StackOverflow when 16 entries are in use; a
`RET` after it comes back to the pushed address (R124; its corner case of 17 CALLs is `SeventeenthCallOverflows`). -/
def Obligations.CallPushesOrOverflows : Prop :=
  ∀ (nnn : Addr) (s : State), decode (wordNNN 0x2 nnn) = .instr (.call nnn) ∧
    (s.sp.val < 16 → ∃ t, exec (.call nnn) s = .next t ∧ t.pc.toNat = nnn.toNat ∧ t.sp.val = s.sp.val + 1 ∧
      (∀ j : Fin 16, t.stack[j.val] = if j.val = s.sp.val then s.pc else s.stack[j.val]) ∧
      Frame [] noByte [.pc, .sp, .stack] s t ∧ ∃ u, exec .ret t = .next u ∧ u.pc = s.pc) ∧
    (s.sp.val = 16 → ∃ t, exec (.call nnn) s = .next t ∧ t.status = .halted .stackOverflow ∧
      Frame [] noByte [.status] s t)

/-- 17 consecutive CALLs from an empty stack produce a fatal fault on the 17th, and not before, whatever their targets
(R234). -/
def Obligations.SeventeenthCallOverflows : Prop :=
  ∀ (s : State) (ns : List Addr), s.status = .running → s.sp.val = 0 → ns.length = 16 →
    ∃ t, execAll (ns.map .call) s = .next t ∧ t.status = .running ∧ t.sp.val = 16 ∧
      ∀ nnn : Addr, exec (.call nnn) t = .next (t.raise .stackOverflow)

/-- Nested calls return in reverse order: CALLs that fit the stack, followed by as many RETs, leave PC at the address
after the first CALL and the stack as deep as before, and change nothing else but stack slots (R27, R122, R124). -/
def Obligations.CallsReturnInOrder : Prop :=
  ∀ (s : State) (ns : List Addr), s.sp.val + ns.length ≤ 16 →
    ∃ t, execAll (ns.map .call ++ ns.map (fun _ => .ret)) s = .next t ∧ t.pc = s.pc ∧ t.sp = s.sp ∧
      Frame [] noByte [.stack] s t

/-- The four register skips: PC moves on by 2 more exactly when the condition holds, nothing else changes (R125 to R128).
The direction of each condition is the spec's own decision D25 (log 16). -/
def Obligations.SkipsFollowTheirConditions : Prop :=
  ∀ (x y : Reg) (kk : Byte) (s : State),
    (∃ t, exec (.seImm x kk) s = .next t ∧ Frame [] noByte [.pc] s t ∧
      t.pc = if s.getV x = kk then s.pc + 2 else s.pc) ∧
    (∃ t, exec (.sneImm x kk) s = .next t ∧ Frame [] noByte [.pc] s t ∧
      t.pc = if s.getV x = kk then s.pc else s.pc + 2) ∧
    (∃ t, exec (.seReg x y) s = .next t ∧ Frame [] noByte [.pc] s t ∧
      t.pc = if s.getV x = s.getV y then s.pc + 2 else s.pc) ∧
    (∃ t, exec (.sneReg x y) s = .next t ∧ Frame [] noByte [.pc] s t ∧
      t.pc = if s.getV x = s.getV y then s.pc else s.pc + 2)

/-- `JP V0, addr` sets PC to the 16-bit sum of nnn and V0, not reduced modulo 4096, and changes nothing else (R129, the
spec's own decision D14, log 17). -/
def Obligations.JumpAddsV0 : Prop :=
  ∀ (nnn : Addr) (s : State), ∃ t, exec (.jpV0 nnn) s = .next t ∧
    t.pc.toNat = nnn.toNat + (s.getV 0).toNat ∧ Frame [] noByte [.pc] s t

/-! ### Arithmetic and logic (41_alu) -/

/-- `LD Vx, byte` (word 6xkk) loads the byte and changes nothing else (R142). -/
def Obligations.LoadImmediateSetsRegister : Prop :=
  ∀ (x : Reg) (kk : Byte) (s : State), decode (wordXKK 0x6 x kk) = .instr (.ldImm x kk) ∧
    ∃ t, exec (.ldImm x kk) s = .next t ∧ t.getV x = kk ∧ Frame [x] noByte [] s t

/-- `ADD Vx, byte` (word 7xkk) adds modulo 256 and changes nothing else, VF included unless it is the destination (R143). -/
def Obligations.AddImmediateWraps : Prop :=
  ∀ (x : Reg) (kk : Byte) (s : State), decode (wordXKK 0x7 x kk) = .instr (.addImm x kk) ∧
    ∃ t, exec (.addImm x kk) s = .next t ∧
    (t.getV x).toNat = ((s.getV x).toNat + kk.toNat) % 256 ∧ Frame [x] noByte [] s t

/-- `LD Vx, Vy` (word 8xy0) copies a register and changes nothing else (R144). -/
def Obligations.LoadRegisterCopies : Prop :=
  ∀ (x y : Reg) (s : State), decode (wordXYN 0x8 x y 0x0) = .instr (.ldReg x y) ∧
    ∃ t, exec (.ldReg x y) s = .next t ∧ t.getV x = s.getV y ∧ Frame [x] noByte [] s t

/-- OR, AND and XOR (words 8xy1, 8xy2, 8xy3) work bit by bit and change nothing but the destination, VF included unless it is the destination
(R145, R146, R147). -/
def Obligations.LogicIsBitwise : Prop :=
  ∀ (x y : Reg) (s : State),
    (decode (wordXYN 0x8 x y 0x1) = .instr (.orReg x y) ∧ ∃ t, exec (.orReg x y) s = .next t ∧ Frame [x] noByte [] s t ∧
      ∀ j, (t.getV x).getLsbD j = ((s.getV x).getLsbD j || (s.getV y).getLsbD j)) ∧
    (decode (wordXYN 0x8 x y 0x2) = .instr (.andReg x y) ∧ ∃ t, exec (.andReg x y) s = .next t ∧ Frame [x] noByte [] s t ∧
      ∀ j, (t.getV x).getLsbD j = ((s.getV x).getLsbD j && (s.getV y).getLsbD j)) ∧
    (decode (wordXYN 0x8 x y 0x3) = .instr (.xorReg x y) ∧ ∃ t, exec (.xorReg x y) s = .next t ∧ Frame [x] noByte [] s t ∧
      ∀ j, (t.getV x).getLsbD j = ((s.getV x).getLsbD j ^^ (s.getV y).getLsbD j))

/-- `ADD Vx, Vy` (word 8xy4): the sum modulo 256 in V[x], the carry in VF, which is what VF holds when x = 0xF (R148). -/
def Obligations.AddSetsCarry : Prop :=
  ∀ (x y : Reg) (s : State), decode (wordXYN 0x8 x y 0x4) = .instr (.addReg x y) ∧
    ∃ t, exec (.addReg x y) s = .next t ∧
    (x ≠ regF → (t.getV x).toNat = ((s.getV x).toNat + (s.getV y).toNat) % 256) ∧
    t.getV regF = (if 255 < (s.getV x).toNat + (s.getV y).toNat then 1 else 0) ∧ Frame [x, regF] noByte [] s t

/-- `SUB Vx, Vy`: the difference modulo 256 in V[x], not-borrow in VF (R149). That the flag is what VF holds when x = 0xF
is the spec's own decision D15 (R141, log 18). -/
def Obligations.SubSetsNotBorrow : Prop :=
  ∀ (x y : Reg) (s : State), ∃ t, exec (.sub x y) s = .next t ∧
    (x ≠ regF → (t.getV x).toNat = ((s.getV x).toNat + 256 - (s.getV y).toNat) % 256) ∧
    t.getV regF = (if (s.getV y).toNat ≤ (s.getV x).toNat then 1 else 0) ∧ Frame [x, regF] noByte [] s t

/-- `SUBN Vx, Vy`: V[y] - V[x] modulo 256 in V[x], not-borrow in VF (R151). That the flag is what VF holds when x = 0xF is
the spec's own decision D15 (R141, log 18). -/
def Obligations.SubnSetsNotBorrow : Prop :=
  ∀ (x y : Reg) (s : State), ∃ t, exec (.subn x y) s = .next t ∧
    (x ≠ regF → (t.getV x).toNat = ((s.getV y).toNat + 256 - (s.getV x).toNat) % 256) ∧
    t.getV regF = (if (s.getV x).toNat ≤ (s.getV y).toNat then 1 else 0) ∧ Frame [x, regF] noByte [] s t

/-- `SHR Vx, Vy`: half the source in V[x], its bit 0 in VF; the source is V[x] or V[y] by the quirk, and V[y] itself is not
modified unless it is V[x] or VF (R150). That the flag is what VF holds when x = 0xF is the spec's own decision D15 (R141,
log 18). -/
def Obligations.ShrShiftsRight : Prop :=
  ∀ (x y : Reg) (s : State) (src : Byte), src = (if s.cfg.shiftQuirk = .vx then s.getV x else s.getV y) →
    ∃ t, exec (.shr x y) s = .next t ∧ (x ≠ regF → (t.getV x).toNat = src.toNat / 2) ∧
      (t.getV regF).toNat = src.toNat % 2 ∧ Frame [x, regF] noByte [] s t

/-- `SHL Vx, Vy`: twice the source modulo 256 in V[x], its bit 7 in VF (R152). That the flag is what VF holds when x = 0xF
is the spec's own decision D15 (R141, log 18). -/
def Obligations.ShlShiftsLeft : Prop :=
  ∀ (x y : Reg) (s : State) (src : Byte), src = (if s.cfg.shiftQuirk = .vx then s.getV x else s.getV y) →
    ∃ t, exec (.shl x y) s = .next t ∧ (x ≠ regF → (t.getV x).toNat = src.toNat * 2 % 256) ∧
      (t.getV regF).toNat = src.toNat / 128 ∧ Frame [x, regF] noByte [] s t

/-- `RND Vx, byte`: V[x] is the free byte of this draw AND kk, so its bits where kk has a 0 are 0; the draw is used up;
nothing else changes (R153). That the byte is a free value is the spec's own decision D23 (log 5); the statement holds
for every value of it. -/
def Obligations.RndMasksFreeByte : Prop :=
  ∀ (x : Reg) (kk : Byte) (s : State), ∃ t, exec (.rnd x kk) s = .next t ∧
    (∀ j, (t.getV x).getLsbD j = ((Config.randomByte s.draws).getLsbD j && kk.getLsbD j)) ∧
    t.draws = s.draws + 1 ∧ Frame [x] noByte [.draws] s t

/-! ### Display (42_display) -/

/-- `CLS` (word 00E0) unsets every pixel and changes nothing else, VF included; any DRW right after it reports no
collision (R171). -/
def Obligations.ClsClearsDisplay : Prop :=
  decode 0x00E0 = .instr .cls ∧
  ∀ s : State, ∃ t, exec .cls s = .next t ∧ (∀ X Y, Display.get t.fb X Y = false) ∧ Frame [] noByte [.fb] s t ∧
    ∀ (x y : Reg) (n : Nibble), ∃ u, exec (.drw x y n) t = .next u ∧ u.getV regF = 0

/-- The draw unit: every grid pixel that a 1 bit of the sprite lands on is toggled, every other keeps its value, and a
collision is reported exactly when a toggled pixel was set (R173; the spec derives that closed form itself from the
sprite's size, and the bit order is its decision D20, log 23). -/
def Obligations.DrawUnitXorsSprite : Prop :=
  ∀ (q : DrawWrapQuirk) (x0 y0 : Nat) (rows : List Byte) (fb : Display), x0 ≤ 63 → y0 ≤ 31 → rows.length ≤ 15 →
    (∀ X Y, Covers q x0 y0 rows X Y → Display.get (draw q x0 y0 rows fb).1 X Y = !(Display.get fb X Y)) ∧
    (∀ X Y, ¬ Covers q x0 y0 rows X Y → Display.get (draw q x0 y0 rows fb).1 X Y = Display.get fb X Y) ∧
    ((draw q x0 y0 rows fb).2 = true ↔ ∃ X Y, Covers q x0 y0 rows X Y ∧ Display.get fb X Y = true)

/-- `DRW Vx, Vy, nibble` toggles exactly the pixels its sprite covers, the origin reduced modulo the grid and the rows
read at I modulo 4096; VF is 1 when a covered pixel was set and 0 otherwise; nothing else changes (R172, R174). The
origin rule, the bit order and VF written last are the spec's own decision D20 (log 23). -/
def Obligations.DrwTogglesItsSprite : Prop :=
  ∀ (x y : Reg) (n : Nibble) (s : State), ∃ t, exec (.drw x y n) s = .next t ∧
    (∀ X Y, SpriteCovers s x y n X Y → Display.get t.fb X Y = !(Display.get s.fb X Y)) ∧
    (∀ X Y, ¬ SpriteCovers s x y n X Y → Display.get t.fb X Y = Display.get s.fb X Y) ∧
    (t.getV regF = 0 ∨ t.getV regF = 1) ∧
    (t.getV regF = 1 ↔ ∃ X Y, SpriteCovers s x y n X Y ∧ Display.get s.fb X Y = true) ∧
    Frame [regF] noByte [.fb] s t

/-- Drawing the same sprite twice at the same coordinates restores the grid, and the second drawing reports a collision
exactly when the first one set a pixel (95_test_vectors S5, R174; decision D20, log 23). The coordinates are the same
when neither is VF. -/
def Obligations.DrwTwiceRestores : Prop :=
  ∀ (x y : Reg) (n : Nibble) (s : State), x ≠ regF → y ≠ regF →
    ∃ t u, exec (.drw x y n) s = .next t ∧ exec (.drw x y n) t = .next u ∧ u.fb = s.fb ∧
      (u.getV regF = 1 ↔ ∃ X Y, Display.get s.fb X Y = false ∧ Display.get t.fb X Y = true)

/-! ### Keypad and timers (43_keypad_timers, 10_state R40, R41) -/

/-- `SKP` and `SKNP` test the key that the low four bits of V[x] select, and change nothing but PC (R190 to R192). The
low nibble and the directions are the spec's own decisions D17 and D25 (log 20, log 16). -/
def Obligations.KeySkipsTestLowNibble : Prop :=
  ∀ (x : Reg) (s : State) (k : Fin 16), k.val = (s.getV x).toNat % 16 →
    (∃ t, exec (.skp x) s = .next t ∧ Frame [] noByte [.pc] s t ∧
      t.pc = if s.key[k.val] = true then s.pc + 2 else s.pc) ∧
    (∃ t, exec (.sknp x) s = .next t ∧ Frame [] noByte [.pc] s t ∧
      t.pc = if s.key[k.val] = true then s.pc else s.pc + 2)

/-- `LD Vx, K`: with a key down the lowest one goes to V[x], AWAIT becomes 0 and PC stays; with none down PC goes back to
this instruction and AWAIT becomes 1; nothing else changes (R193, the spec's own decision D16, log 19). -/
def Obligations.KeyWaitTakesLowestKey : Prop :=
  ∀ (x : Reg) (s : State),
    (∀ k : Fin 16, s.key[k.val] = true → (∀ j : Fin 16, j.val < k.val → s.key[j.val] = false) →
      ∃ t, exec (.ldVxK x) s = .next t ∧ (t.getV x).toNat = k.val ∧ t.await = false ∧
        Frame [x] noByte [.await] s t) ∧
    ((∀ k : Fin 16, s.key[k.val] = false) →
      ∃ t, exec (.ldVxK x) s = .next t ∧ t.await = true ∧ t.pc = s.pc - 2 ∧ Frame [] noByte [.pc, .await] s t)

/-- A whole step of a waiting `LD Vx, K` changes nothing but AWAIT, PC included (R193, R32, the spec's conflict C3 and
decision D16, log 19). -/
def Obligations.KeyWaitStepRepeats : Prop :=
  ∀ (x : Reg) (s : State), s.loaded = true → s.status = .running → s.pc.toNat ≤ 0xFFE →
    decode (s.fetch s.pc.toNat) = .instr (.ldVxK x) → (∀ k : Fin 16, s.key[k.val] = false) →
    ∃ t, step s = .next t ∧ t.await = true ∧ Frame [] noByte [.await] s t

/-- `LD Vx, DT` reads the delay counter; `LD DT, Vx` and `LD ST, Vx` write the counters; nothing else changes (R194 to
R196, the spec's own decision D22, log 25). -/
def Obligations.TimerMoves : Prop :=
  ∀ (x : Reg) (s : State),
    (∃ t, exec (.ldVxDT x) s = .next t ∧ t.getV x = s.dt ∧ Frame [x] noByte [] s t) ∧
    (∃ t, exec (.ldDTVx x) s = .next t ∧ t.dt = s.getV x ∧ Frame [] noByte [.dt] s t) ∧
    (∃ t, exec (.ldSTVx x) s = .next t ∧ t.st = s.getV x ∧ Frame [] noByte [.st] s t)

/-- N ticks take a counter from T to max(0, T - N), in every state, a halted one too (the spec's own decision D9,
log 27), and touch nothing else (R40, R244). -/
def Obligations.TicksCountDown : Prop :=
  ∀ (n : Nat) (s : State), ∃ t, runAll (List.replicate n .tick) s = .next t ∧
    t.dt.toNat = s.dt.toNat - n ∧ t.st.toNat = s.st.toNat - n ∧ Frame [] noByte [.dt, .st] s t

/-- `set_key(k, pressed)` writes one key and nothing else; an index above 15 is refused (R41, the spec's own decision
D26, log 29). -/
def Obligations.SetKeyWritesOneKey : Prop :=
  ∀ (k : Nat) (p : Bool) (s : State),
    (k < 16 → ∃ t, transact (.setKey k p) s = .next t ∧
      (∀ j : Fin 16, t.key[j.val] = if j.val = k then p else s.key[j.val]) ∧ Frame [] noByte [.key] s t) ∧
    (16 ≤ k → transact (.setKey k p) s = .refused .keyOutOfRange)

/-! ### Index register and memory (44_index_memory) -/

/-- `LD I, addr` (word Annn) loads nnn into I and changes nothing else (R211). -/
def Obligations.LoadIndexSetsI : Prop :=
  ∀ (nnn : Addr) (s : State), decode (wordNNN 0xA nnn) = .instr (.ldI nnn) ∧
    ∃ t, exec (.ldI nnn) s = .next t ∧ t.i.toNat = nnn.toNat ∧ Frame [] noByte [.i] s t

/-- `ADD I, Vx` adds modulo 65536; with the quirk on VF becomes 1 when the exact sum is above 0xFFF and 0 otherwise, with
it off VF is untouched; nothing else changes (R212, the spec's own decision D18, log 21). -/
def Obligations.AddIndexAddsRegister : Prop :=
  ∀ (x : Reg) (s : State),
    (s.cfg.addIOverflowQuirk = .on → ∃ t, exec (.addI x) s = .next t ∧
      t.i.toNat = (s.i.toNat + (s.getV x).toNat) % 65536 ∧
      t.getV regF = (if 0xFFF < s.i.toNat + (s.getV x).toNat then 1 else 0) ∧ Frame [regF] noByte [.i] s t) ∧
    (s.cfg.addIOverflowQuirk = .off → ∃ t, exec (.addI x) s = .next t ∧
      t.i.toNat = (s.i.toNat + (s.getV x).toNat) % 65536 ∧ Frame [] noByte [.i] s t)

/-- `LD F, Vx` points I at the glyph of the low nibble of V[x], inside the reserved area, and changes nothing else
(R213). FONT_BASE is open (decision D3, log 2) and the low nibble the spec's own decision D17 (log 20); the statement
holds for every FONT_BASE. -/
def Obligations.LoadFontPointsAtGlyph : Prop :=
  ∀ (x : Reg) (s : State), ∃ t, exec (.ldF x) s = .next t ∧
    t.i.toNat = Config.fontBase.val + 5 * ((s.getV x).toNat % 16) ∧ t.i.toNat + 4 ≤ 0x1FF ∧ Frame [] noByte [.i] s t

/-- `LD B, Vx` stores the three decimal digits of V[x], most significant first, each at its own wrapped address, and
changes nothing else, I included (R214, the spec's own decision D21, log 24). -/
def Obligations.BcdStoresDigits : Prop :=
  ∀ (x : Reg) (s : State), ∃ t, exec (.ldB x) s = .next t ∧ Frame [] (storedThroughI s 3) [] s t ∧
    100 * (Memory.read t.mem (s.effAddr 0)).toNat + 10 * (Memory.read t.mem (s.effAddr 1)).toNat +
      (Memory.read t.mem (s.effAddr 2)).toNat = (s.getV x).toNat ∧
    ∀ k, k < 3 → (Memory.read t.mem (s.effAddr k)).toNat ≤ 9

/-- `LD [I], Vx` stores V0 to V[x] at the x+1 wrapped addresses from I on and changes no other byte; I goes up by x+1
modulo 65536 with the quirk on and stays otherwise; nothing else changes (R215, the spec's own decision D19,
log 22). -/
def Obligations.BlockStoreWritesRegisters : Prop :=
  ∀ (x : Reg) (s : State), ∃ t, exec (.storeRegs x) s = .next t ∧
    (∀ k : Fin 16, k.val ≤ x.val → Memory.read t.mem (s.effAddr k.val) = s.getV k) ∧
    t.i.toNat = (if s.cfg.storeLoadIncrementQuirk = .on then (s.i.toNat + x.val + 1) % 65536 else s.i.toNat) ∧
    Frame [] (storedThroughI s (x.val + 1)) [.i] s t

/-- `LD Vx, [I]` loads V0 to V[x] from the x+1 wrapped addresses from I on and changes no other register and no byte; I
goes up by x+1 modulo 65536 with the quirk on and stays otherwise (R216, the spec's own decision D19, log 22). -/
def Obligations.BlockLoadReadsRegisters : Prop :=
  ∀ (x : Reg) (s : State), ∃ t, exec (.loadRegs x) s = .next t ∧
    (∀ k : Fin 16, k.val ≤ x.val → t.getV k = Memory.read s.mem (s.effAddr k.val)) ∧
    t.i.toNat = (if s.cfg.storeLoadIncrementQuirk = .on then (s.i.toNat + x.val + 1) % 65536 else s.i.toNat) ∧
    Frame (Instr.writtenRegs s.cfg (.loadRegs x)) noByte [.i] s t

/-- A block load after a block store through the same I brings the registers back: a store followed by a load of the
same block, from any state whose I and memory the store left, gives V0 to V[x] of the stored state (R215, R216, 20_memory
R73; decision D19, log 22). -/
def Obligations.BlockStoreThenLoad : Prop :=
  ∀ (x : Reg) (s t w : State), exec (.storeRegs x) s = .next t → w.mem = t.mem → w.i = s.i →
    ∃ u, exec (.loadRegs x) w = .next u ∧ ∀ k : Fin 16, k.val ≤ x.val → u.getV k = s.getV k

/-- A stored byte is seen by the very next fetch: after `LD [I], Vx` with x at least 1, the word fetched at the address I
pointed to is made of V0 and V1 (20_memory R76, an inference of the spec; decision D19, log 22). -/
def Obligations.FetchSeesStore : Prop :=
  ∀ (x : Reg) (s : State), 1 ≤ x.val → s.effAddr 0 ≤ 0xFFE →
    ∃ t, exec (.storeRegs x) s = .next t ∧
      (t.fetch (s.effAddr 0)).toNat = (s.getV 0).toNat * 256 + (s.getV 1).toNat

/-! ### Memory (20_memory) -/

/-- The canonical form is one: two memories in it that read the same at every address are the same list (20_memory R60,
R73; the form is the model's, log 32). -/
def Obligations.MemoryFormUnique : Prop :=
  ∀ m m' : Memory, Memory.wf m = true → Memory.wf m' = true →
    (∀ a, a < memSize → Memory.read m a = Memory.read m' a) → m = m'

/-! ### Rules of the whole machine -/

/-- What every instruction leaves unchanged: only the registers of R22, the bytes of R67 and the pieces of state that
R20 and R26 give it change. The tables of R22 and R26 are inferences of the spec. -/
def Obligations.EveryInstructionFrame : Prop :=
  ∀ (i : Instr) (s t : State), exec i s = .next t →
    Frame (i.writtenRegs s.cfg) (i.storedBytes s) i.writtenParts s t

/-- After an instruction that writes VF as a flag, VF is 0 or 1; an instruction that neither writes it as a flag nor
names it as a destination leaves it alone (R23; the quirk of ADD I is decision D18, log 21). -/
def Obligations.FlagIsZeroOrOne : Prop :=
  ∀ (i : Instr) (s t : State), exec i s = .next t →
    (i.writesFlag s.cfg = true → t.getV regF = 0 ∨ t.getV regF = 1) ∧
    (regF ∉ i.writtenRegs s.cfg → t.getV regF = s.getV regF)

/-- The fatal faults are exactly the three of R231, each under its condition. That PC = 0xFFF is out of bounds is the
spec's own decision D8 (log 26). -/
def Obligations.FaultsExactly : Prop :=
  ∀ (s : State) (c : FatalFault), s.loaded = true → s.status = .running →
    ((∃ t, step s = .next t ∧ t.status = .halted c) ↔
      (c = .pcOutOfBounds ∧ 0xFFE < s.pc.toNat) ∨
      (c = .stackOverflow ∧ s.pc.toNat ≤ 0xFFE ∧ s.sp.val = 16 ∧
        ∃ nnn, decode (s.fetch s.pc.toNat) = .instr (.call nnn)) ∨
      (c = .stackUnderflow ∧ s.pc.toNat ≤ 0xFFE ∧ s.sp.val = 0 ∧ decode (s.fetch s.pc.toNat) = .instr .ret))

/-- Every fault is precise: the faulting step writes STATUS, and PC only in the two stack faults, where it is the address
of the instruction plus 2 (R232, the spec's own decision D9, log 27). -/
def Obligations.FaultsArePrecise : Prop :=
  ∀ (s t : State) (c : FatalFault), s.status = .running → step s = .next t → t.status = .halted c →
    Frame [] noByte [.pc, .status] s t ∧ t.pc = if c = .pcOutOfBounds then s.pc else s.pc + 2

/-- Only `reset` leaves the halted state: under any other transactions a halted engine keeps its first cause and changes
in nothing but the counters and the keys (R239, R241, the spec's own decision D9, log 27). -/
def Obligations.HaltedUntilReset : Prop :=
  ∀ (ts : List Transaction) (s t : State) (c : FatalFault), s.loaded = true → s.status = .halted c →
    (∀ cfg, Transaction.reset cfg ∉ ts) → runAll ts s = .next t →
    t.status = .halted c ∧ Frame [] noByte [.dt, .st, .key] s t

/-- AWAIT after a step of a running engine is 1 exactly when the step executed `LD Vx, K` and found no key down
(R32; the spec's own decision D16, log 19). The invariant rules out states in which AWAIT is 1 away from an `LD Vx, K`. -/
def Obligations.AwaitExactlyWhileWaiting : Prop :=
  ∀ s t : State, Inv s → s.status = .running → step s = .next t →
    (t.await = true ↔ s.pc.toNat ≤ 0xFFE ∧ (∃ x, decode (s.fetch s.pc.toNat) = .instr (.ldVxK x)) ∧
      ∀ k : Fin 16, s.key[k.val] = false)

/-- ST, DIAG and AWAIT are read by no instruction: changing them before an instruction changes nothing else after it
(R28, R32, R42, 60_exceptions R236). -/
def Obligations.OutputsAreNeverRead : Prop :=
  ∀ (i : Instr) (s t : State) (st : Byte) (diag : List DiagEvent) (aw : Bool), exec i s = .next t →
    ∃ u, exec i { s with st := st, diag := diag, await := aw } = .next u ∧
      Frame [] noByte [.st, .diag, .await] t u

/-- No instruction reads a pixel into a register: changing the grid before an instruction changes nothing else after it,
but for the collision flag of DRW (R30). -/
def Obligations.PixelsFeedOnlyCollision : Prop :=
  ∀ (i : Instr) (s t : State) (fb : Display), exec i s = .next t →
    ∃ u, exec i { s with fb := fb } = .next u ∧
      Frame (match i with | .drw _ _ _ => [regF] | _ => []) noByte [.fb] t u

/-! ### Reset and load (70_reset_and_hazards) -/

/-- What `reset(cfg)` leaves: R43 and R271. The zeros are the spec's own decision D7 (log 4), the font's place and bytes
D3 and D4 (log 2, log 3), the legal offsets D6 (log 29); nothing is said of the model's own counter. -/
def Obligations.ResetValues : Prop :=
  ∀ (c : Cfg) (s : State),
    (0x200 ≤ c.loadOffset.toNat → c.loadOffset.toNat ≤ 0xFFF → ∃ t, transact (.reset c) s = .next t ∧
      (∀ r, t.getV r = 0) ∧ t.i = 0 ∧ t.pc = c.loadOffset ∧ t.sp.val = 0 ∧
      (∀ j : Fin 16, t.stack[j.val] = 0) ∧ t.dt = 0 ∧ t.st = 0 ∧
      (∀ j, j < 80 → Memory.read t.mem (Config.fontBase.val + j) = fontData.getD j 0) ∧
      (∀ a, a < Config.fontBase.val ∨ Config.fontBase.val + 80 ≤ a → Memory.read t.mem a = 0) ∧
      (∀ X Y, Display.get t.fb X Y = false) ∧ (∀ k : Fin 16, t.key[k.val] = false) ∧ t.await = false ∧
      t.status = .running ∧ t.loaded = false ∧ t.cfg = c ∧ t.diag = []) ∧
    (c.loadOffset.toNat < 0x200 ∨ 0xFFF < c.loadOffset.toNat →
      transact (.reset c) s = .refused .illegalConfig)

/-- `load(image)` copies a valid image to the load offset, sets LOADED and writes nothing else, PC being at the load
offset already; an empty or too large image changes nothing at all; a second load is refused (R273, R274, R276). The
refusal is the spec's own decision D30 (log 8); that a rejected load answers a next state, the old one, is the model's
choice (log 10). The invariant rules out an unloaded state with PC elsewhere. -/
def Obligations.LoadCopiesImage : Prop :=
  ∀ (s : State) (image : List Byte),
    (s.loaded = false → 1 ≤ image.length → image.length ≤ 4096 - s.cfg.loadOffset.toNat →
      ∃ t, transact (.load image) s = .next t ∧ t.loaded = true ∧
        (∀ j, j < image.length → Memory.read t.mem (s.cfg.loadOffset.toNat + j) = image.getD j 0) ∧
        Frame [] (fun a => s.cfg.loadOffset.toNat ≤ a ∧ a < s.cfg.loadOffset.toNat + image.length) [.loaded] s t ∧
        (Inv s → t.pc = t.cfg.loadOffset)) ∧
    (s.loaded = false → image.length = 0 ∨ 4096 - s.cfg.loadOffset.toNat < image.length →
      transact (.load image) s = .next s) ∧
    (s.loaded = true → transact (.load image) s = .refused .secondLoad)

/-! ### The invariant -/

/-- The invariant holds right after reset, for every legal configuration (the spec's own decision D6, log 29) and for the
one State.reset takes. The canonical form of the memory is the model's own (log 32). -/
def Obligations.ResetMeetsInvariant : Prop :=
  Inv State.reset ∧ ∀ c : Cfg, cfgLegal c = true → Inv (State.resetWith c)

/-- Every step keeps the invariant: the memory's canonical form, PC at most 0x10FE, pushed return addresses at most
0x1000, AWAIT only while PC rests on an `LD Vx, K`, a halted engine showing its cause, only unknown words in DIAG, PC at
the load offset before a load, a legal configuration (10_state R25, R32, 40_flow R122, 60_exceptions R231, R236,
70_reset_and_hazards R273, R278). The canonical form is the model's own (log 32); the conditions of a halt, the events
of DIAG, the key wait, the legal configurations and LOADED are the spec's own decisions D8, D9, D11, D16, D6 and D30
(logs 26, 27, 12, 19, 29, 8). -/
def Obligations.StepKeepsInvariant : Prop := ∀ s t : State, Inv s → step s = .next t → Inv t

/-- Every finite interleaving of the five transactions keeps the invariant (R36). What its conjuncts rest on is said at
`StepKeepsInvariant`; the canonical form of the memory is the model's own (log 32). -/
def Obligations.TransactionsKeepInvariant : Prop :=
  ∀ (ts : List Transaction) (s t : State), Inv s → runAll ts s = .next t → Inv t
end

