-- ==== Sys2Proof/Laws/Decode.lean ====
section
/-! SUPPORT. The fields of the words the encoder builds (30_encoding R91, R92). -/

namespace Sys2Proof

variable (op n : BitVec 4) (x y : Reg) (nnn : Addr) (kk : Byte)

@[simp] theorem op_wordNNN : Word.op (wordNNN op nnn) = op := BitVec.extractLsb'_append_eq_left

@[simp] theorem nnn_wordNNN : Word.nnn (wordNNN op nnn) = nnn := BitVec.extractLsb'_append_eq_right

@[simp] theorem op_wordXKK : Word.op (wordXKK op x kk) = op :=
  (BitVec.extractLsb'_append_eq_of_le (by decide)).trans BitVec.extractLsb'_append_eq_left

@[simp] theorem x_wordXKK : Word.x (wordXKK op x kk) = x :=
  congrArg BitVec.toFin ((BitVec.extractLsb'_append_eq_of_le (by decide)).trans BitVec.extractLsb'_append_eq_right)

@[simp] theorem kk_wordXKK : Word.kk (wordXKK op x kk) = kk := BitVec.extractLsb'_append_eq_right

@[simp] theorem op_wordXYN : Word.op (wordXYN op x y n) = op :=
  (BitVec.extractLsb'_append_eq_of_le (by decide)).trans
    ((BitVec.extractLsb'_append_eq_of_le (by decide)).trans BitVec.extractLsb'_append_eq_left)

@[simp] theorem x_wordXYN : Word.x (wordXYN op x y n) = x :=
  congrArg BitVec.toFin ((BitVec.extractLsb'_append_eq_of_le (by decide)).trans
    ((BitVec.extractLsb'_append_eq_of_le (by decide)).trans BitVec.extractLsb'_append_eq_right))

@[simp] theorem y_wordXYN : Word.y (wordXYN op x y n) = y :=
  congrArg BitVec.toFin ((BitVec.extractLsb'_append_eq_of_le (by decide)).trans BitVec.extractLsb'_append_eq_right)

@[simp] theorem n_wordXYN : Word.n (wordXYN op x y n) = n := BitVec.extractLsb'_append_eq_right

/-! A word is put together again from its fields (30_encoding R91, R92). -/

theorem wordNNN_fields (w : Word) : wordNNN (Word.op w) (Word.nnn w) = w := by
  apply BitVec.eq_of_getLsbD_eq
  intro j hj
  simp only [wordNNN, Word.op, Word.nnn, BitVec.getLsbD_append, BitVec.getLsbD_extractLsb']
  by_cases h : j < 12
  · simp [h]
  · simp [h, show 12 + (j - 12) = j by omega, show j - 12 < 4 by omega]

theorem wordXKK_fields (w : Word) : wordXKK (Word.op w) (Word.x w) (Word.kk w) = w := by
  apply BitVec.eq_of_getLsbD_eq
  intro j hj
  simp only [wordXKK, Word.op, Word.x, Word.kk, BitVec.getLsbD_append, BitVec.ofFin_toFin,
    BitVec.getLsbD_extractLsb']
  by_cases h : j < 8
  · simp [h]
  · by_cases h2 : j - 8 < 4
    · simp [h, h2, show 8 + (j - 8) = j by omega]
    · simp [h, h2, show 12 + (j - 8 - 4) = j by omega, show j - 8 - 4 < 4 by omega]

theorem wordXYN_fields (w : Word) : wordXYN (Word.op w) (Word.x w) (Word.y w) (Word.n w) = w := by
  apply BitVec.eq_of_getLsbD_eq
  intro j hj
  simp only [wordXYN, Word.op, Word.x, Word.y, Word.n, BitVec.getLsbD_append, BitVec.ofFin_toFin,
    BitVec.getLsbD_extractLsb']
  by_cases h : j < 4
  · simp [h]
  · by_cases h2 : j - 4 < 4
    · simp [h, h2, show 4 + (j - 4) = j by omega]
    · by_cases h3 : j - 4 - 4 < 4
      · simp [h, h2, h3, show 8 + (j - 4 - 4) = j by omega]
      · simp [h, h2, h3, show 12 + (j - 4 - 4 - 4) = j by omega, show j - 4 - 4 - 4 < 4 by omega]

/-! The bits a format's mask keeps (30_encoding R96). -/

theorem wordNNN_and (op' : BitVec 4) (nnn' : Addr) :
    wordNNN op nnn &&& wordNNN op' nnn' = wordNNN (op &&& op') (nnn &&& nnn') := BitVec.and_append

theorem wordXKK_and (op' : BitVec 4) (x' : Reg) (kk' : Byte) :
    wordXKK op x kk &&& wordXKK op' x' kk' =
      wordXKK (op &&& op') ((BitVec.ofFin x &&& BitVec.ofFin x' : BitVec 4).toFin) (kk &&& kk') := by
  unfold wordXKK
  exact BitVec.and_append.trans (congrArg (· ++ (kk &&& kk')) BitVec.and_append)

theorem wordXYN_and (op' n' : BitVec 4) (x' y' : Reg) :
    wordXYN op x y n &&& wordXYN op' x' y' n' =
      wordXYN (op &&& op') ((BitVec.ofFin x &&& BitVec.ofFin x' : BitVec 4).toFin)
        ((BitVec.ofFin y &&& BitVec.ofFin y' : BitVec 4).toFin) (n &&& n') := by
  unfold wordXYN
  exact BitVec.and_append.trans (congrArg (· ++ (n &&& n'))
    (BitVec.and_append.trans (congrArg (· ++ _) BitVec.and_append)))

theorem op_and_mask : op &&& 0xF = op := BitVec.and_allOnes

theorem kk_and_mask : kk &&& 0xFF = kk := BitVec.and_allOnes

theorem wordNNN_and_mask : wordNNN op nnn &&& 0xF000 = wordNNN op 0 := by
  rw [show (0xF000 : Word) = wordNNN 0xF 0 by decide, wordNNN_and, op_and_mask]
  exact congrArg _ BitVec.and_zero

theorem wordXKK_and_mask : wordXKK op x kk &&& 0xF000 = wordXKK op 0 0 := by
  rw [show (0xF000 : Word) = wordXKK 0xF 0 0 by decide, wordXKK_and, op_and_mask]
  exact congrArg₂ _ (congrArg BitVec.toFin BitVec.and_zero) BitVec.and_zero

theorem wordX_and_mask : wordXKK op x kk &&& 0xF0FF = wordXKK op 0 kk := by
  rw [show (0xF0FF : Word) = wordXKK 0xF 0 0xFF by decide, wordXKK_and, op_and_mask, kk_and_mask]
  exact congrArg (wordXKK op · kk) (congrArg BitVec.toFin BitVec.and_zero)

theorem wordXY_and_mask : wordXYN op x y n &&& 0xF00F = wordXYN op 0 0 n := by
  rw [show (0xF00F : Word) = wordXYN 0xF 0 0 0xF by decide, wordXYN_and, op_and_mask, op_and_mask]
  exact congrArg₂ (wordXYN op · · n) (congrArg BitVec.toFin BitVec.and_zero) (congrArg BitVec.toFin BitVec.and_zero)

theorem wordXYN_and_mask : wordXYN op x y n &&& 0xF000 = wordXYN op 0 0 0 := by
  rw [show (0xF000 : Word) = wordXYN 0xF 0 0 0 by decide, wordXYN_and, op_and_mask]
  exact congr (congrArg₂ _ (congrArg BitVec.toFin BitVec.and_zero) (congrArg BitVec.toFin BitVec.and_zero))
    BitVec.and_zero

end Sys2Proof
end

