-- ==== Sys2Proof/Laws/Memory.lean ====
section
/-! SUPPORT. The laws of the memory: a read after a write, and that every memory operation keeps the canonical form. -/

namespace Sys2Proof.Machine

/-! ### Reading after writing -/

theorem Memory.lookup_insert (a c : Nat) (b : Byte) (m : Memory) :
    Memory.lookup c (Memory.insert a b m) = if c = a then some b else Memory.lookup c m := by
  induction m with
  | nil => simp [Memory.insert, Memory.lookup, eq_comm]
  | cons e m ih =>
    obtain ⟨k, d⟩ := e
    by_cases hca : c = a
    · subst hca
      simp only [Memory.insert]
      split
      · simp [Memory.lookup]
      · split
        · simp [Memory.lookup]
        · have : k ≠ c := by omega
          simpa [Memory.lookup, this] using ih
    · have hac : a ≠ c := Ne.symm hca
      simp only [Memory.insert]
      split
      · simp [Memory.lookup, hac]
      · split
        · rename_i h
          subst h
          simp [Memory.lookup, hac]
        · simp [Memory.lookup, ih, hca]

theorem Memory.lookup_erase (a c : Nat) (m : Memory) :
    Memory.lookup c (Memory.erase a m) = if c = a then none else Memory.lookup c m := by
  induction m with
  | nil => simp [Memory.erase, Memory.lookup]
  | cons e m ih =>
    obtain ⟨k, d⟩ := e
    simp only [Memory.erase]
    split
    · rename_i h
      subst h
      by_cases hca : c = k
      · simpa [hca] using ih
      · simp [ih, hca, Memory.lookup, Ne.symm hca]
    · rename_i h
      by_cases hca : c = a
      · subst hca
        simpa [Memory.lookup, h] using ih
      · simp [Memory.lookup, ih, hca]

/-- A read after a write: the byte written at its address, every other address as before. -/
@[simp] theorem Memory.read_write (m : Memory) (a c : Nat) (b : Byte) :
    Memory.read (Memory.write m a b) c = if c = a then b else Memory.read m c := by
  unfold Memory.read Memory.write
  split
  · rename_i h
    rw [Memory.lookup_erase]
    split
    · simp_all
    · rfl
  · rw [Memory.lookup_insert]
    split <;> simp

theorem Memory.read_writeBytes (bs : List Byte) (m : Memory) (a c : Nat) :
    Memory.read (Memory.writeBytes m a bs) c =
      if a ≤ c ∧ c < a + bs.length then bs.getD (c - a) 0 else Memory.read m c := by
  induction bs generalizing m a with
  | nil => simp [Memory.writeBytes]
  | cons b bs ih =>
    rw [Memory.writeBytes, ih, Memory.read_write]
    rcases Nat.lt_trichotomy c a with h | h | h
    · simp [show ¬ (a + 1 ≤ c) by omega, show ¬ (a ≤ c) by omega, show c ≠ a by omega]
    · subst h
      simp
    · obtain ⟨d, rfl⟩ : ∃ d, c = a + 1 + d := ⟨c - (a + 1), by omega⟩
      have h1 : a + 1 + d - (a + 1) = d := by omega
      have h2 : a + 1 + d - a = d + 1 := by omega
      simp [h1, h2, show a + 1 + d ≠ a by omega, show a ≤ a + 1 + d by omega,
        show (a + 1 + d < a + 1 + bs.length) = (a + 1 + d < a + (bs.length + 1)) by
          apply propext; omega]

/-! ### The canonical form -/

theorem Memory.wfFrom_cons (lo k : Nat) (b : Byte) (m : Memory) :
    Memory.wfFrom lo ((k, b) :: m) = true ↔
      lo ≤ k ∧ k < memSize ∧ b ≠ Memory.unlisted k ∧ Memory.wfFrom (k + 1) m = true := by
  simp [Memory.wfFrom, and_assoc]

theorem Memory.wfFrom_mono {lo lo' : Nat} {m : Memory} (h : Memory.wfFrom lo m = true) (hl : lo' ≤ lo) :
    Memory.wfFrom lo' m = true := by
  cases m with
  | nil => rfl
  | cons e m =>
    obtain ⟨k, b⟩ := e
    rw [Memory.wfFrom_cons] at h ⊢
    exact ⟨by omega, h.2⟩

theorem Memory.wfFrom_insert {lo a : Nat} {b : Byte} {m : Memory} (h : Memory.wfFrom lo m = true) (hl : lo ≤ a)
    (ha : a < memSize) (hb : b ≠ Memory.unlisted a) : Memory.wfFrom lo (Memory.insert a b m) = true := by
  induction m generalizing lo with
  | nil => exact (Memory.wfFrom_cons _ _ _ _).2 ⟨hl, ha, hb, rfl⟩
  | cons e m ih =>
    obtain ⟨k, c⟩ := e
    rw [Memory.wfFrom_cons] at h
    obtain ⟨h1, h2, h3, h4⟩ := h
    simp only [Memory.insert]
    split
    · exact (Memory.wfFrom_cons _ _ _ _).2 ⟨hl, ha, hb, (Memory.wfFrom_cons _ _ _ _).2 ⟨by omega, h2, h3, h4⟩⟩
    · split
      · rename_i hk
        subst hk
        exact (Memory.wfFrom_cons _ _ _ _).2 ⟨hl, ha, hb, h4⟩
      · exact (Memory.wfFrom_cons _ _ _ _).2 ⟨h1, h2, h3, ih h4 (by omega)⟩

theorem Memory.wfFrom_erase {lo a : Nat} {m : Memory} (h : Memory.wfFrom lo m = true) :
    Memory.wfFrom lo (Memory.erase a m) = true := by
  induction m generalizing lo with
  | nil => rfl
  | cons e m ih =>
    obtain ⟨k, c⟩ := e
    rw [Memory.wfFrom_cons] at h
    obtain ⟨h1, h2, h3, h4⟩ := h
    simp only [Memory.erase]
    split
    · exact Memory.wfFrom_mono (ih h4) (by omega)
    · exact (Memory.wfFrom_cons _ _ _ _).2 ⟨h1, h2, h3, ih h4⟩

/-- A write inside the address space keeps the canonical form. -/
theorem Memory.wf_write {m : Memory} {a : Nat} {b : Byte} (h : Memory.wf m = true) (ha : a < memSize) :
    Memory.wf (Memory.write m a b) = true := by
  unfold Memory.write
  split
  · exact Memory.wfFrom_erase h
  · exact Memory.wfFrom_insert h (Nat.zero_le a) ha ‹_›

/-- Writing a block that ends inside the address space keeps the canonical form. -/
theorem Memory.wf_writeBytes {bs : List Byte} {m : Memory} {a : Nat} (h : Memory.wf m = true)
    (ha : a + bs.length ≤ memSize) : Memory.wf (Memory.writeBytes m a bs) = true := by
  induction bs generalizing m a with
  | nil => exact h
  | cons b bs ih =>
    simp only [List.length_cons] at ha
    exact ih (Memory.wf_write h (by omega)) (by omega)

/-- The memory after reset lists nothing and so is in the canonical form. -/
theorem Memory.wf_nil : Memory.wf [] = true := rfl

theorem Memory.lookup_eq_none_of_wfFrom {lo a : Nat} {m : Memory} (h : Memory.wfFrom lo m = true) (ha : a < lo) :
    Memory.lookup a m = none := by
  induction m generalizing lo with
  | nil => rfl
  | cons e m ih =>
    obtain ⟨k, c⟩ := e
    rw [Memory.wfFrom_cons] at h
    have : k ≠ a := by omega
    simpa [Memory.lookup, this] using ih h.2.2.2 (by omega)

/-! ### The reset contents -/

theorem Memory.read_nil (a : Nat) : Memory.read [] a = Memory.unlisted a := rfl

/-- Above the reserved area an unlisted address reads as zero. -/
theorem Memory.unlisted_of_le {a : Nat} (h : 0x200 ≤ a) : Memory.unlisted a = 0 := by
  simp [Memory.unlisted, show ¬ a < 0x200 by omega]

/-- In the font area an unlisted address reads as its font byte. -/
theorem Memory.unlisted_font {j : Nat} (h : j < 80) :
    Memory.unlisted (Config.fontBase.val + j) = fontData.getD j 0 := by
  have := Config.fontBase.isLt
  simp [Memory.unlisted, show Config.fontBase.val + j < 0x200 by omega]

end Sys2Proof.Machine
end

