-- ==== Sys2Proof/Laws/State.lean ====
section
/-! SUPPORT. What each update of the state does to each field: one lemma per field per update, so that no later
proof unfolds a record update. -/

namespace Sys2Proof.Machine

variable (s : State)

/-! `V[x] <- b`: `State.setV`. -/

@[simp] theorem State.setV_v (x : Reg) (b : Byte) : (s.setV x b).v = s.v.set x.val b := rfl
@[simp] theorem State.setV_i (x : Reg) (b : Byte) : (s.setV x b).i = s.i := rfl
@[simp] theorem State.setV_pc (x : Reg) (b : Byte) : (s.setV x b).pc = s.pc := rfl
@[simp] theorem State.setV_sp (x : Reg) (b : Byte) : (s.setV x b).sp = s.sp := rfl
@[simp] theorem State.setV_stack (x : Reg) (b : Byte) : (s.setV x b).stack = s.stack := rfl
@[simp] theorem State.setV_dt (x : Reg) (b : Byte) : (s.setV x b).dt = s.dt := rfl
@[simp] theorem State.setV_st (x : Reg) (b : Byte) : (s.setV x b).st = s.st := rfl
@[simp] theorem State.setV_mem (x : Reg) (b : Byte) : (s.setV x b).mem = s.mem := rfl
@[simp] theorem State.setV_fb (x : Reg) (b : Byte) : (s.setV x b).fb = s.fb := rfl
@[simp] theorem State.setV_key (x : Reg) (b : Byte) : (s.setV x b).key = s.key := rfl
@[simp] theorem State.setV_await (x : Reg) (b : Byte) : (s.setV x b).await = s.await := rfl
@[simp] theorem State.setV_status (x : Reg) (b : Byte) : (s.setV x b).status = s.status := rfl
@[simp] theorem State.setV_loaded (x : Reg) (b : Byte) : (s.setV x b).loaded = s.loaded := rfl
@[simp] theorem State.setV_cfg (x : Reg) (b : Byte) : (s.setV x b).cfg = s.cfg := rfl
@[simp] theorem State.setV_diag (x : Reg) (b : Byte) : (s.setV x b).diag = s.diag := rfl
@[simp] theorem State.setV_draws (x : Reg) (b : Byte) : (s.setV x b).draws = s.draws := rfl
@[simp] theorem State.setV_memRead (x : Reg) (b : Byte) (k : Nat) : (s.setV x b).memRead k = s.memRead k := rfl
@[simp] theorem State.setV_fetch (x : Reg) (b : Byte) (k : Nat) : (s.setV x b).fetch k = s.fetch k := rfl

/-! `I <- w`: `State.setI`. -/

@[simp] theorem State.setI_v (w : Word) : (s.setI w).v = s.v := rfl
@[simp] theorem State.setI_i (w : Word) : (s.setI w).i = w := rfl
@[simp] theorem State.setI_pc (w : Word) : (s.setI w).pc = s.pc := rfl
@[simp] theorem State.setI_sp (w : Word) : (s.setI w).sp = s.sp := rfl
@[simp] theorem State.setI_stack (w : Word) : (s.setI w).stack = s.stack := rfl
@[simp] theorem State.setI_dt (w : Word) : (s.setI w).dt = s.dt := rfl
@[simp] theorem State.setI_st (w : Word) : (s.setI w).st = s.st := rfl
@[simp] theorem State.setI_mem (w : Word) : (s.setI w).mem = s.mem := rfl
@[simp] theorem State.setI_fb (w : Word) : (s.setI w).fb = s.fb := rfl
@[simp] theorem State.setI_key (w : Word) : (s.setI w).key = s.key := rfl
@[simp] theorem State.setI_await (w : Word) : (s.setI w).await = s.await := rfl
@[simp] theorem State.setI_status (w : Word) : (s.setI w).status = s.status := rfl
@[simp] theorem State.setI_loaded (w : Word) : (s.setI w).loaded = s.loaded := rfl
@[simp] theorem State.setI_cfg (w : Word) : (s.setI w).cfg = s.cfg := rfl
@[simp] theorem State.setI_diag (w : Word) : (s.setI w).diag = s.diag := rfl
@[simp] theorem State.setI_draws (w : Word) : (s.setI w).draws = s.draws := rfl
@[simp] theorem State.setI_getV (w : Word) (r : Reg) : (s.setI w).getV r = s.getV r := rfl
@[simp] theorem State.setI_memRead (w : Word) (k : Nat) : (s.setI w).memRead k = s.memRead k := rfl
@[simp] theorem State.setI_fetch (w : Word) (k : Nat) : (s.setI w).fetch k = s.fetch k := rfl

/-! `PC <- w`: `State.setPc`. -/

@[simp] theorem State.setPc_v (w : Word) : (s.setPc w).v = s.v := rfl
@[simp] theorem State.setPc_i (w : Word) : (s.setPc w).i = s.i := rfl
@[simp] theorem State.setPc_pc (w : Word) : (s.setPc w).pc = w := rfl
@[simp] theorem State.setPc_sp (w : Word) : (s.setPc w).sp = s.sp := rfl
@[simp] theorem State.setPc_stack (w : Word) : (s.setPc w).stack = s.stack := rfl
@[simp] theorem State.setPc_dt (w : Word) : (s.setPc w).dt = s.dt := rfl
@[simp] theorem State.setPc_st (w : Word) : (s.setPc w).st = s.st := rfl
@[simp] theorem State.setPc_mem (w : Word) : (s.setPc w).mem = s.mem := rfl
@[simp] theorem State.setPc_fb (w : Word) : (s.setPc w).fb = s.fb := rfl
@[simp] theorem State.setPc_key (w : Word) : (s.setPc w).key = s.key := rfl
@[simp] theorem State.setPc_await (w : Word) : (s.setPc w).await = s.await := rfl
@[simp] theorem State.setPc_status (w : Word) : (s.setPc w).status = s.status := rfl
@[simp] theorem State.setPc_loaded (w : Word) : (s.setPc w).loaded = s.loaded := rfl
@[simp] theorem State.setPc_cfg (w : Word) : (s.setPc w).cfg = s.cfg := rfl
@[simp] theorem State.setPc_diag (w : Word) : (s.setPc w).diag = s.diag := rfl
@[simp] theorem State.setPc_draws (w : Word) : (s.setPc w).draws = s.draws := rfl
@[simp] theorem State.setPc_getV (w : Word) (r : Reg) : (s.setPc w).getV r = s.getV r := rfl
@[simp] theorem State.setPc_memRead (w : Word) (k : Nat) : (s.setPc w).memRead k = s.memRead k := rfl
@[simp] theorem State.setPc_fetch (w : Word) (k : Nat) : (s.setPc w).fetch k = s.fetch k := rfl

/-! `DT <- b`: `State.setDt`. -/

@[simp] theorem State.setDt_v (b : Byte) : (s.setDt b).v = s.v := rfl
@[simp] theorem State.setDt_i (b : Byte) : (s.setDt b).i = s.i := rfl
@[simp] theorem State.setDt_pc (b : Byte) : (s.setDt b).pc = s.pc := rfl
@[simp] theorem State.setDt_sp (b : Byte) : (s.setDt b).sp = s.sp := rfl
@[simp] theorem State.setDt_stack (b : Byte) : (s.setDt b).stack = s.stack := rfl
@[simp] theorem State.setDt_dt (b : Byte) : (s.setDt b).dt = b := rfl
@[simp] theorem State.setDt_st (b : Byte) : (s.setDt b).st = s.st := rfl
@[simp] theorem State.setDt_mem (b : Byte) : (s.setDt b).mem = s.mem := rfl
@[simp] theorem State.setDt_fb (b : Byte) : (s.setDt b).fb = s.fb := rfl
@[simp] theorem State.setDt_key (b : Byte) : (s.setDt b).key = s.key := rfl
@[simp] theorem State.setDt_await (b : Byte) : (s.setDt b).await = s.await := rfl
@[simp] theorem State.setDt_status (b : Byte) : (s.setDt b).status = s.status := rfl
@[simp] theorem State.setDt_loaded (b : Byte) : (s.setDt b).loaded = s.loaded := rfl
@[simp] theorem State.setDt_cfg (b : Byte) : (s.setDt b).cfg = s.cfg := rfl
@[simp] theorem State.setDt_diag (b : Byte) : (s.setDt b).diag = s.diag := rfl
@[simp] theorem State.setDt_draws (b : Byte) : (s.setDt b).draws = s.draws := rfl
@[simp] theorem State.setDt_getV (b : Byte) (r : Reg) : (s.setDt b).getV r = s.getV r := rfl
@[simp] theorem State.setDt_memRead (b : Byte) (k : Nat) : (s.setDt b).memRead k = s.memRead k := rfl
@[simp] theorem State.setDt_fetch (b : Byte) (k : Nat) : (s.setDt b).fetch k = s.fetch k := rfl

/-! `ST <- b`: `State.setSt`. -/

@[simp] theorem State.setSt_v (b : Byte) : (s.setSt b).v = s.v := rfl
@[simp] theorem State.setSt_i (b : Byte) : (s.setSt b).i = s.i := rfl
@[simp] theorem State.setSt_pc (b : Byte) : (s.setSt b).pc = s.pc := rfl
@[simp] theorem State.setSt_sp (b : Byte) : (s.setSt b).sp = s.sp := rfl
@[simp] theorem State.setSt_stack (b : Byte) : (s.setSt b).stack = s.stack := rfl
@[simp] theorem State.setSt_dt (b : Byte) : (s.setSt b).dt = s.dt := rfl
@[simp] theorem State.setSt_st (b : Byte) : (s.setSt b).st = b := rfl
@[simp] theorem State.setSt_mem (b : Byte) : (s.setSt b).mem = s.mem := rfl
@[simp] theorem State.setSt_fb (b : Byte) : (s.setSt b).fb = s.fb := rfl
@[simp] theorem State.setSt_key (b : Byte) : (s.setSt b).key = s.key := rfl
@[simp] theorem State.setSt_await (b : Byte) : (s.setSt b).await = s.await := rfl
@[simp] theorem State.setSt_status (b : Byte) : (s.setSt b).status = s.status := rfl
@[simp] theorem State.setSt_loaded (b : Byte) : (s.setSt b).loaded = s.loaded := rfl
@[simp] theorem State.setSt_cfg (b : Byte) : (s.setSt b).cfg = s.cfg := rfl
@[simp] theorem State.setSt_diag (b : Byte) : (s.setSt b).diag = s.diag := rfl
@[simp] theorem State.setSt_draws (b : Byte) : (s.setSt b).draws = s.draws := rfl
@[simp] theorem State.setSt_getV (b : Byte) (r : Reg) : (s.setSt b).getV r = s.getV r := rfl
@[simp] theorem State.setSt_memRead (b : Byte) (k : Nat) : (s.setSt b).memRead k = s.memRead k := rfl
@[simp] theorem State.setSt_fetch (b : Byte) (k : Nat) : (s.setSt b).fetch k = s.fetch k := rfl

/-! `AWAIT <- b`: `State.setAwait`. -/

@[simp] theorem State.setAwait_v (b : Bool) : (s.setAwait b).v = s.v := rfl
@[simp] theorem State.setAwait_i (b : Bool) : (s.setAwait b).i = s.i := rfl
@[simp] theorem State.setAwait_pc (b : Bool) : (s.setAwait b).pc = s.pc := rfl
@[simp] theorem State.setAwait_sp (b : Bool) : (s.setAwait b).sp = s.sp := rfl
@[simp] theorem State.setAwait_stack (b : Bool) : (s.setAwait b).stack = s.stack := rfl
@[simp] theorem State.setAwait_dt (b : Bool) : (s.setAwait b).dt = s.dt := rfl
@[simp] theorem State.setAwait_st (b : Bool) : (s.setAwait b).st = s.st := rfl
@[simp] theorem State.setAwait_mem (b : Bool) : (s.setAwait b).mem = s.mem := rfl
@[simp] theorem State.setAwait_fb (b : Bool) : (s.setAwait b).fb = s.fb := rfl
@[simp] theorem State.setAwait_key (b : Bool) : (s.setAwait b).key = s.key := rfl
@[simp] theorem State.setAwait_await (b : Bool) : (s.setAwait b).await = b := rfl
@[simp] theorem State.setAwait_status (b : Bool) : (s.setAwait b).status = s.status := rfl
@[simp] theorem State.setAwait_loaded (b : Bool) : (s.setAwait b).loaded = s.loaded := rfl
@[simp] theorem State.setAwait_cfg (b : Bool) : (s.setAwait b).cfg = s.cfg := rfl
@[simp] theorem State.setAwait_diag (b : Bool) : (s.setAwait b).diag = s.diag := rfl
@[simp] theorem State.setAwait_draws (b : Bool) : (s.setAwait b).draws = s.draws := rfl
@[simp] theorem State.setAwait_getV (b : Bool) (r : Reg) : (s.setAwait b).getV r = s.getV r := rfl
@[simp] theorem State.setAwait_memRead (b : Bool) (k : Nat) : (s.setAwait b).memRead k = s.memRead k := rfl
@[simp] theorem State.setAwait_fetch (b : Bool) (k : Nat) : (s.setAwait b).fetch k = s.fetch k := rfl

/-! a new grid: `State.setFb`. -/

@[simp] theorem State.setFb_v (fb : Display) : (s.setFb fb).v = s.v := rfl
@[simp] theorem State.setFb_i (fb : Display) : (s.setFb fb).i = s.i := rfl
@[simp] theorem State.setFb_pc (fb : Display) : (s.setFb fb).pc = s.pc := rfl
@[simp] theorem State.setFb_sp (fb : Display) : (s.setFb fb).sp = s.sp := rfl
@[simp] theorem State.setFb_stack (fb : Display) : (s.setFb fb).stack = s.stack := rfl
@[simp] theorem State.setFb_dt (fb : Display) : (s.setFb fb).dt = s.dt := rfl
@[simp] theorem State.setFb_st (fb : Display) : (s.setFb fb).st = s.st := rfl
@[simp] theorem State.setFb_mem (fb : Display) : (s.setFb fb).mem = s.mem := rfl
@[simp] theorem State.setFb_fb (fb : Display) : (s.setFb fb).fb = fb := rfl
@[simp] theorem State.setFb_key (fb : Display) : (s.setFb fb).key = s.key := rfl
@[simp] theorem State.setFb_await (fb : Display) : (s.setFb fb).await = s.await := rfl
@[simp] theorem State.setFb_status (fb : Display) : (s.setFb fb).status = s.status := rfl
@[simp] theorem State.setFb_loaded (fb : Display) : (s.setFb fb).loaded = s.loaded := rfl
@[simp] theorem State.setFb_cfg (fb : Display) : (s.setFb fb).cfg = s.cfg := rfl
@[simp] theorem State.setFb_diag (fb : Display) : (s.setFb fb).diag = s.diag := rfl
@[simp] theorem State.setFb_draws (fb : Display) : (s.setFb fb).draws = s.draws := rfl
@[simp] theorem State.setFb_getV (fb : Display) (r : Reg) : (s.setFb fb).getV r = s.getV r := rfl
@[simp] theorem State.setFb_memRead (fb : Display) (k : Nat) : (s.setFb fb).memRead k = s.memRead k := rfl
@[simp] theorem State.setFb_fetch (fb : Display) (k : Nat) : (s.setFb fb).fetch k = s.fetch k := rfl

/-! `MemWrite`: `State.memWrite`. -/

@[simp] theorem State.memWrite_v (a : Nat) (b : Byte) : (s.memWrite a b).v = s.v := rfl
@[simp] theorem State.memWrite_i (a : Nat) (b : Byte) : (s.memWrite a b).i = s.i := rfl
@[simp] theorem State.memWrite_pc (a : Nat) (b : Byte) : (s.memWrite a b).pc = s.pc := rfl
@[simp] theorem State.memWrite_sp (a : Nat) (b : Byte) : (s.memWrite a b).sp = s.sp := rfl
@[simp] theorem State.memWrite_stack (a : Nat) (b : Byte) : (s.memWrite a b).stack = s.stack := rfl
@[simp] theorem State.memWrite_dt (a : Nat) (b : Byte) : (s.memWrite a b).dt = s.dt := rfl
@[simp] theorem State.memWrite_st (a : Nat) (b : Byte) : (s.memWrite a b).st = s.st := rfl
@[simp] theorem State.memWrite_mem (a : Nat) (b : Byte) : (s.memWrite a b).mem =
    Memory.write s.mem (a % memSize) b := rfl
@[simp] theorem State.memWrite_fb (a : Nat) (b : Byte) : (s.memWrite a b).fb = s.fb := rfl
@[simp] theorem State.memWrite_key (a : Nat) (b : Byte) : (s.memWrite a b).key = s.key := rfl
@[simp] theorem State.memWrite_await (a : Nat) (b : Byte) : (s.memWrite a b).await = s.await := rfl
@[simp] theorem State.memWrite_status (a : Nat) (b : Byte) : (s.memWrite a b).status = s.status := rfl
@[simp] theorem State.memWrite_loaded (a : Nat) (b : Byte) : (s.memWrite a b).loaded = s.loaded := rfl
@[simp] theorem State.memWrite_cfg (a : Nat) (b : Byte) : (s.memWrite a b).cfg = s.cfg := rfl
@[simp] theorem State.memWrite_diag (a : Nat) (b : Byte) : (s.memWrite a b).diag = s.diag := rfl
@[simp] theorem State.memWrite_draws (a : Nat) (b : Byte) : (s.memWrite a b).draws = s.draws := rfl
@[simp] theorem State.memWrite_getV (a : Nat) (b : Byte) (r : Reg) : (s.memWrite a b).getV r = s.getV r := rfl

/-! the advance of PC: `State.advance`. -/

@[simp] theorem State.advance_v : s.advance.v = s.v := rfl
@[simp] theorem State.advance_i : s.advance.i = s.i := rfl
@[simp] theorem State.advance_pc : s.advance.pc = s.pc + 2 := rfl
@[simp] theorem State.advance_sp : s.advance.sp = s.sp := rfl
@[simp] theorem State.advance_stack : s.advance.stack = s.stack := rfl
@[simp] theorem State.advance_dt : s.advance.dt = s.dt := rfl
@[simp] theorem State.advance_st : s.advance.st = s.st := rfl
@[simp] theorem State.advance_mem : s.advance.mem = s.mem := rfl
@[simp] theorem State.advance_fb : s.advance.fb = s.fb := rfl
@[simp] theorem State.advance_key : s.advance.key = s.key := rfl
@[simp] theorem State.advance_await : s.advance.await = s.await := rfl
@[simp] theorem State.advance_status : s.advance.status = s.status := rfl
@[simp] theorem State.advance_loaded : s.advance.loaded = s.loaded := rfl
@[simp] theorem State.advance_cfg : s.advance.cfg = s.cfg := rfl
@[simp] theorem State.advance_diag : s.advance.diag = s.diag := rfl
@[simp] theorem State.advance_draws : s.advance.draws = s.draws := rfl
@[simp] theorem State.advance_getV (r : Reg) : s.advance.getV r = s.getV r := rfl
@[simp] theorem State.advance_memRead (k : Nat) : s.advance.memRead k = s.memRead k := rfl
@[simp] theorem State.advance_fetch (k : Nat) : s.advance.fetch k = s.fetch k := rfl

/-! a conditional skip: `State.skipIf`. -/

@[simp] theorem State.skipIf_v (c : Bool) : (s.skipIf c).v = s.v := rfl
@[simp] theorem State.skipIf_i (c : Bool) : (s.skipIf c).i = s.i := rfl
@[simp] theorem State.skipIf_pc (c : Bool) : (s.skipIf c).pc = if c then s.pc + 2 else s.pc := rfl
@[simp] theorem State.skipIf_sp (c : Bool) : (s.skipIf c).sp = s.sp := rfl
@[simp] theorem State.skipIf_stack (c : Bool) : (s.skipIf c).stack = s.stack := rfl
@[simp] theorem State.skipIf_dt (c : Bool) : (s.skipIf c).dt = s.dt := rfl
@[simp] theorem State.skipIf_st (c : Bool) : (s.skipIf c).st = s.st := rfl
@[simp] theorem State.skipIf_mem (c : Bool) : (s.skipIf c).mem = s.mem := rfl
@[simp] theorem State.skipIf_fb (c : Bool) : (s.skipIf c).fb = s.fb := rfl
@[simp] theorem State.skipIf_key (c : Bool) : (s.skipIf c).key = s.key := rfl
@[simp] theorem State.skipIf_await (c : Bool) : (s.skipIf c).await = s.await := rfl
@[simp] theorem State.skipIf_status (c : Bool) : (s.skipIf c).status = s.status := rfl
@[simp] theorem State.skipIf_loaded (c : Bool) : (s.skipIf c).loaded = s.loaded := rfl
@[simp] theorem State.skipIf_cfg (c : Bool) : (s.skipIf c).cfg = s.cfg := rfl
@[simp] theorem State.skipIf_diag (c : Bool) : (s.skipIf c).diag = s.diag := rfl
@[simp] theorem State.skipIf_draws (c : Bool) : (s.skipIf c).draws = s.draws := rfl
@[simp] theorem State.skipIf_getV (c : Bool) (r : Reg) : (s.skipIf c).getV r = s.getV r := rfl
@[simp] theorem State.skipIf_memRead (c : Bool) (k : Nat) : (s.skipIf c).memRead k = s.memRead k := rfl
@[simp] theorem State.skipIf_fetch (c : Bool) (k : Nat) : (s.skipIf c).fetch k = s.fetch k := rfl

/-! a push: `State.push`. -/

@[simp] theorem State.push_v (w : Word) (h : s.sp.val < 16) : (s.push w h).v = s.v := rfl
@[simp] theorem State.push_i (w : Word) (h : s.sp.val < 16) : (s.push w h).i = s.i := rfl
@[simp] theorem State.push_pc (w : Word) (h : s.sp.val < 16) : (s.push w h).pc = s.pc := rfl
@[simp] theorem State.push_sp (w : Word) (h : s.sp.val < 16) : (s.push w h).sp = ⟨s.sp.val + 1, by omega⟩ := rfl
@[simp] theorem State.push_stack (w : Word) (h : s.sp.val < 16) : (s.push w h).stack = s.stack.set s.sp.val w h := rfl
@[simp] theorem State.push_dt (w : Word) (h : s.sp.val < 16) : (s.push w h).dt = s.dt := rfl
@[simp] theorem State.push_st (w : Word) (h : s.sp.val < 16) : (s.push w h).st = s.st := rfl
@[simp] theorem State.push_mem (w : Word) (h : s.sp.val < 16) : (s.push w h).mem = s.mem := rfl
@[simp] theorem State.push_fb (w : Word) (h : s.sp.val < 16) : (s.push w h).fb = s.fb := rfl
@[simp] theorem State.push_key (w : Word) (h : s.sp.val < 16) : (s.push w h).key = s.key := rfl
@[simp] theorem State.push_await (w : Word) (h : s.sp.val < 16) : (s.push w h).await = s.await := rfl
@[simp] theorem State.push_status (w : Word) (h : s.sp.val < 16) : (s.push w h).status = s.status := rfl
@[simp] theorem State.push_loaded (w : Word) (h : s.sp.val < 16) : (s.push w h).loaded = s.loaded := rfl
@[simp] theorem State.push_cfg (w : Word) (h : s.sp.val < 16) : (s.push w h).cfg = s.cfg := rfl
@[simp] theorem State.push_diag (w : Word) (h : s.sp.val < 16) : (s.push w h).diag = s.diag := rfl
@[simp] theorem State.push_draws (w : Word) (h : s.sp.val < 16) : (s.push w h).draws = s.draws := rfl
@[simp] theorem State.push_getV (w : Word) (h : s.sp.val < 16) (r : Reg) : (s.push w h).getV r = s.getV r := rfl
@[simp] theorem State.push_memRead (w : Word) (h : s.sp.val < 16) (k : Nat) : (s.push w h).memRead k =
    s.memRead k := rfl
@[simp] theorem State.push_fetch (w : Word) (h : s.sp.val < 16) (k : Nat) : (s.push w h).fetch k = s.fetch k := rfl

/-! a pop into PC: `State.popPc`. -/

@[simp] theorem State.popPc_v (h : 0 < s.sp.val) : (s.popPc h).v = s.v := rfl
@[simp] theorem State.popPc_i (h : 0 < s.sp.val) : (s.popPc h).i = s.i := rfl
@[simp] theorem State.popPc_pc (h : 0 < s.sp.val) : (s.popPc h).pc = s.stack[s.sp.val - 1]'(by omega) := rfl
@[simp] theorem State.popPc_sp (h : 0 < s.sp.val) : (s.popPc h).sp = ⟨s.sp.val - 1, by omega⟩ := rfl
@[simp] theorem State.popPc_stack (h : 0 < s.sp.val) : (s.popPc h).stack = s.stack := rfl
@[simp] theorem State.popPc_dt (h : 0 < s.sp.val) : (s.popPc h).dt = s.dt := rfl
@[simp] theorem State.popPc_st (h : 0 < s.sp.val) : (s.popPc h).st = s.st := rfl
@[simp] theorem State.popPc_mem (h : 0 < s.sp.val) : (s.popPc h).mem = s.mem := rfl
@[simp] theorem State.popPc_fb (h : 0 < s.sp.val) : (s.popPc h).fb = s.fb := rfl
@[simp] theorem State.popPc_key (h : 0 < s.sp.val) : (s.popPc h).key = s.key := rfl
@[simp] theorem State.popPc_await (h : 0 < s.sp.val) : (s.popPc h).await = s.await := rfl
@[simp] theorem State.popPc_status (h : 0 < s.sp.val) : (s.popPc h).status = s.status := rfl
@[simp] theorem State.popPc_loaded (h : 0 < s.sp.val) : (s.popPc h).loaded = s.loaded := rfl
@[simp] theorem State.popPc_cfg (h : 0 < s.sp.val) : (s.popPc h).cfg = s.cfg := rfl
@[simp] theorem State.popPc_diag (h : 0 < s.sp.val) : (s.popPc h).diag = s.diag := rfl
@[simp] theorem State.popPc_draws (h : 0 < s.sp.val) : (s.popPc h).draws = s.draws := rfl
@[simp] theorem State.popPc_getV (h : 0 < s.sp.val) (r : Reg) : (s.popPc h).getV r = s.getV r := rfl
@[simp] theorem State.popPc_memRead (h : 0 < s.sp.val) (k : Nat) : (s.popPc h).memRead k = s.memRead k := rfl
@[simp] theorem State.popPc_fetch (h : 0 < s.sp.val) (k : Nat) : (s.popPc h).fetch k = s.fetch k := rfl

/-! a fatal fault: `State.raise`. -/

@[simp] theorem State.raise_v (c : FatalFault) : (s.raise c).v = s.v := rfl
@[simp] theorem State.raise_i (c : FatalFault) : (s.raise c).i = s.i := rfl
@[simp] theorem State.raise_pc (c : FatalFault) : (s.raise c).pc = s.pc := rfl
@[simp] theorem State.raise_sp (c : FatalFault) : (s.raise c).sp = s.sp := rfl
@[simp] theorem State.raise_stack (c : FatalFault) : (s.raise c).stack = s.stack := rfl
@[simp] theorem State.raise_dt (c : FatalFault) : (s.raise c).dt = s.dt := rfl
@[simp] theorem State.raise_st (c : FatalFault) : (s.raise c).st = s.st := rfl
@[simp] theorem State.raise_mem (c : FatalFault) : (s.raise c).mem = s.mem := rfl
@[simp] theorem State.raise_fb (c : FatalFault) : (s.raise c).fb = s.fb := rfl
@[simp] theorem State.raise_key (c : FatalFault) : (s.raise c).key = s.key := rfl
@[simp] theorem State.raise_await (c : FatalFault) : (s.raise c).await = s.await := rfl
@[simp] theorem State.raise_status (c : FatalFault) : (s.raise c).status = .halted c := rfl
@[simp] theorem State.raise_loaded (c : FatalFault) : (s.raise c).loaded = s.loaded := rfl
@[simp] theorem State.raise_cfg (c : FatalFault) : (s.raise c).cfg = s.cfg := rfl
@[simp] theorem State.raise_diag (c : FatalFault) : (s.raise c).diag = s.diag := rfl
@[simp] theorem State.raise_draws (c : FatalFault) : (s.raise c).draws = s.draws := rfl
@[simp] theorem State.raise_getV (c : FatalFault) (r : Reg) : (s.raise c).getV r = s.getV r := rfl
@[simp] theorem State.raise_memRead (c : FatalFault) (k : Nat) : (s.raise c).memRead k = s.memRead k := rfl
@[simp] theorem State.raise_fetch (c : FatalFault) (k : Nat) : (s.raise c).fetch k = s.fetch k := rfl

/-! a diagnostic event: `State.report`. -/

@[simp] theorem State.report_v (a w : Word) : (s.report a w).v = s.v := rfl
@[simp] theorem State.report_i (a w : Word) : (s.report a w).i = s.i := rfl
@[simp] theorem State.report_pc (a w : Word) : (s.report a w).pc = s.pc := rfl
@[simp] theorem State.report_sp (a w : Word) : (s.report a w).sp = s.sp := rfl
@[simp] theorem State.report_stack (a w : Word) : (s.report a w).stack = s.stack := rfl
@[simp] theorem State.report_dt (a w : Word) : (s.report a w).dt = s.dt := rfl
@[simp] theorem State.report_st (a w : Word) : (s.report a w).st = s.st := rfl
@[simp] theorem State.report_mem (a w : Word) : (s.report a w).mem = s.mem := rfl
@[simp] theorem State.report_fb (a w : Word) : (s.report a w).fb = s.fb := rfl
@[simp] theorem State.report_key (a w : Word) : (s.report a w).key = s.key := rfl
@[simp] theorem State.report_await (a w : Word) : (s.report a w).await = s.await := rfl
@[simp] theorem State.report_status (a w : Word) : (s.report a w).status = s.status := rfl
@[simp] theorem State.report_loaded (a w : Word) : (s.report a w).loaded = s.loaded := rfl
@[simp] theorem State.report_cfg (a w : Word) : (s.report a w).cfg = s.cfg := rfl
@[simp] theorem State.report_diag (a w : Word) : (s.report a w).diag = s.diag ++ [⟨a, w⟩] := rfl
@[simp] theorem State.report_draws (a w : Word) : (s.report a w).draws = s.draws := rfl
@[simp] theorem State.report_getV (a w : Word) (r : Reg) : (s.report a w).getV r = s.getV r := rfl
@[simp] theorem State.report_memRead (a w : Word) (k : Nat) : (s.report a w).memRead k = s.memRead k := rfl
@[simp] theorem State.report_fetch (a w : Word) (k : Nat) : (s.report a w).fetch k = s.fetch k := rfl

/-! a draw used up: `State.countDraw`. -/

@[simp] theorem State.countDraw_v : s.countDraw.v = s.v := rfl
@[simp] theorem State.countDraw_i : s.countDraw.i = s.i := rfl
@[simp] theorem State.countDraw_pc : s.countDraw.pc = s.pc := rfl
@[simp] theorem State.countDraw_sp : s.countDraw.sp = s.sp := rfl
@[simp] theorem State.countDraw_stack : s.countDraw.stack = s.stack := rfl
@[simp] theorem State.countDraw_dt : s.countDraw.dt = s.dt := rfl
@[simp] theorem State.countDraw_st : s.countDraw.st = s.st := rfl
@[simp] theorem State.countDraw_mem : s.countDraw.mem = s.mem := rfl
@[simp] theorem State.countDraw_fb : s.countDraw.fb = s.fb := rfl
@[simp] theorem State.countDraw_key : s.countDraw.key = s.key := rfl
@[simp] theorem State.countDraw_await : s.countDraw.await = s.await := rfl
@[simp] theorem State.countDraw_status : s.countDraw.status = s.status := rfl
@[simp] theorem State.countDraw_loaded : s.countDraw.loaded = s.loaded := rfl
@[simp] theorem State.countDraw_cfg : s.countDraw.cfg = s.cfg := rfl
@[simp] theorem State.countDraw_diag : s.countDraw.diag = s.diag := rfl
@[simp] theorem State.countDraw_draws : s.countDraw.draws = s.draws + 1 := rfl
@[simp] theorem State.countDraw_getV (r : Reg) : s.countDraw.getV r = s.getV r := rfl
@[simp] theorem State.countDraw_memRead (k : Nat) : s.countDraw.memRead k = s.memRead k := rfl
@[simp] theorem State.countDraw_fetch (k : Nat) : s.countDraw.fetch k = s.fetch k := rfl

/-! a flag write: `State.setFlag`. -/

@[simp] theorem State.setFlag_v (f : Bool) : (s.setFlag f).v = s.v.set 15 (flagByte f) := rfl
@[simp] theorem State.setFlag_i (f : Bool) : (s.setFlag f).i = s.i := rfl
@[simp] theorem State.setFlag_pc (f : Bool) : (s.setFlag f).pc = s.pc := rfl
@[simp] theorem State.setFlag_sp (f : Bool) : (s.setFlag f).sp = s.sp := rfl
@[simp] theorem State.setFlag_stack (f : Bool) : (s.setFlag f).stack = s.stack := rfl
@[simp] theorem State.setFlag_dt (f : Bool) : (s.setFlag f).dt = s.dt := rfl
@[simp] theorem State.setFlag_st (f : Bool) : (s.setFlag f).st = s.st := rfl
@[simp] theorem State.setFlag_mem (f : Bool) : (s.setFlag f).mem = s.mem := rfl
@[simp] theorem State.setFlag_fb (f : Bool) : (s.setFlag f).fb = s.fb := rfl
@[simp] theorem State.setFlag_key (f : Bool) : (s.setFlag f).key = s.key := rfl
@[simp] theorem State.setFlag_await (f : Bool) : (s.setFlag f).await = s.await := rfl
@[simp] theorem State.setFlag_status (f : Bool) : (s.setFlag f).status = s.status := rfl
@[simp] theorem State.setFlag_loaded (f : Bool) : (s.setFlag f).loaded = s.loaded := rfl
@[simp] theorem State.setFlag_cfg (f : Bool) : (s.setFlag f).cfg = s.cfg := rfl
@[simp] theorem State.setFlag_diag (f : Bool) : (s.setFlag f).diag = s.diag := rfl
@[simp] theorem State.setFlag_draws (f : Bool) : (s.setFlag f).draws = s.draws := rfl
@[simp] theorem State.setFlag_memRead (f : Bool) (k : Nat) : (s.setFlag f).memRead k = s.memRead k := rfl
@[simp] theorem State.setFlag_fetch (f : Bool) (k : Nat) : (s.setFlag f).fetch k = s.fetch k := rfl

/-! a result and its flag: `State.writeResult`. -/

@[simp] theorem State.writeResult_v (x : Reg) (b : Byte) (f : Bool) : (s.writeResult x b f).v =
    (s.v.set x.val b).set 15 (flagByte f) := rfl
@[simp] theorem State.writeResult_i (x : Reg) (b : Byte) (f : Bool) : (s.writeResult x b f).i = s.i := rfl
@[simp] theorem State.writeResult_pc (x : Reg) (b : Byte) (f : Bool) : (s.writeResult x b f).pc = s.pc := rfl
@[simp] theorem State.writeResult_sp (x : Reg) (b : Byte) (f : Bool) : (s.writeResult x b f).sp = s.sp := rfl
@[simp] theorem State.writeResult_stack (x : Reg) (b : Byte) (f : Bool) : (s.writeResult x b f).stack = s.stack := rfl
@[simp] theorem State.writeResult_dt (x : Reg) (b : Byte) (f : Bool) : (s.writeResult x b f).dt = s.dt := rfl
@[simp] theorem State.writeResult_st (x : Reg) (b : Byte) (f : Bool) : (s.writeResult x b f).st = s.st := rfl
@[simp] theorem State.writeResult_mem (x : Reg) (b : Byte) (f : Bool) : (s.writeResult x b f).mem = s.mem := rfl
@[simp] theorem State.writeResult_fb (x : Reg) (b : Byte) (f : Bool) : (s.writeResult x b f).fb = s.fb := rfl
@[simp] theorem State.writeResult_key (x : Reg) (b : Byte) (f : Bool) : (s.writeResult x b f).key = s.key := rfl
@[simp] theorem State.writeResult_await (x : Reg) (b : Byte) (f : Bool) : (s.writeResult x b f).await = s.await := rfl
@[simp] theorem State.writeResult_status (x : Reg) (b : Byte) (f : Bool) : (s.writeResult x b f).status =
    s.status := rfl
@[simp] theorem State.writeResult_loaded (x : Reg) (b : Byte) (f : Bool) : (s.writeResult x b f).loaded =
    s.loaded := rfl
@[simp] theorem State.writeResult_cfg (x : Reg) (b : Byte) (f : Bool) : (s.writeResult x b f).cfg = s.cfg := rfl
@[simp] theorem State.writeResult_diag (x : Reg) (b : Byte) (f : Bool) : (s.writeResult x b f).diag = s.diag := rfl
@[simp] theorem State.writeResult_draws (x : Reg) (b : Byte) (f : Bool) : (s.writeResult x b f).draws = s.draws := rfl
@[simp] theorem State.writeResult_memRead (x : Reg) (b : Byte) (f : Bool) (k : Nat) : (s.writeResult x b f).memRead k =
    s.memRead k := rfl
@[simp] theorem State.writeResult_fetch (x : Reg) (b : Byte) (f : Bool) (k : Nat) : (s.writeResult x b f).fetch k =
    s.fetch k := rfl

/-! the flag of ADD I: `State.addIFlag`. -/

@[simp] theorem State.addIFlag_i (f : Bool) : (s.addIFlag f).i = s.i := rfl
@[simp] theorem State.addIFlag_pc (f : Bool) : (s.addIFlag f).pc = s.pc := rfl
@[simp] theorem State.addIFlag_sp (f : Bool) : (s.addIFlag f).sp = s.sp := rfl
@[simp] theorem State.addIFlag_stack (f : Bool) : (s.addIFlag f).stack = s.stack := rfl
@[simp] theorem State.addIFlag_dt (f : Bool) : (s.addIFlag f).dt = s.dt := rfl
@[simp] theorem State.addIFlag_st (f : Bool) : (s.addIFlag f).st = s.st := rfl
@[simp] theorem State.addIFlag_mem (f : Bool) : (s.addIFlag f).mem = s.mem := rfl
@[simp] theorem State.addIFlag_fb (f : Bool) : (s.addIFlag f).fb = s.fb := rfl
@[simp] theorem State.addIFlag_key (f : Bool) : (s.addIFlag f).key = s.key := rfl
@[simp] theorem State.addIFlag_await (f : Bool) : (s.addIFlag f).await = s.await := rfl
@[simp] theorem State.addIFlag_status (f : Bool) : (s.addIFlag f).status = s.status := rfl
@[simp] theorem State.addIFlag_loaded (f : Bool) : (s.addIFlag f).loaded = s.loaded := rfl
@[simp] theorem State.addIFlag_cfg (f : Bool) : (s.addIFlag f).cfg = s.cfg := rfl
@[simp] theorem State.addIFlag_diag (f : Bool) : (s.addIFlag f).diag = s.diag := rfl
@[simp] theorem State.addIFlag_draws (f : Bool) : (s.addIFlag f).draws = s.draws := rfl
@[simp] theorem State.addIFlag_memRead (f : Bool) (k : Nat) : (s.addIFlag f).memRead k = s.memRead k := rfl
@[simp] theorem State.addIFlag_fetch (f : Bool) (k : Nat) : (s.addIFlag f).fetch k = s.fetch k := rfl

/-! the increment of a block move: `State.incrementI`. -/

@[simp] theorem State.incrementI_v (x : Reg) : (s.incrementI x).v = s.v := rfl
@[simp] theorem State.incrementI_pc (x : Reg) : (s.incrementI x).pc = s.pc := rfl
@[simp] theorem State.incrementI_sp (x : Reg) : (s.incrementI x).sp = s.sp := rfl
@[simp] theorem State.incrementI_stack (x : Reg) : (s.incrementI x).stack = s.stack := rfl
@[simp] theorem State.incrementI_dt (x : Reg) : (s.incrementI x).dt = s.dt := rfl
@[simp] theorem State.incrementI_st (x : Reg) : (s.incrementI x).st = s.st := rfl
@[simp] theorem State.incrementI_mem (x : Reg) : (s.incrementI x).mem = s.mem := rfl
@[simp] theorem State.incrementI_fb (x : Reg) : (s.incrementI x).fb = s.fb := rfl
@[simp] theorem State.incrementI_key (x : Reg) : (s.incrementI x).key = s.key := rfl
@[simp] theorem State.incrementI_await (x : Reg) : (s.incrementI x).await = s.await := rfl
@[simp] theorem State.incrementI_status (x : Reg) : (s.incrementI x).status = s.status := rfl
@[simp] theorem State.incrementI_loaded (x : Reg) : (s.incrementI x).loaded = s.loaded := rfl
@[simp] theorem State.incrementI_cfg (x : Reg) : (s.incrementI x).cfg = s.cfg := rfl
@[simp] theorem State.incrementI_diag (x : Reg) : (s.incrementI x).diag = s.diag := rfl
@[simp] theorem State.incrementI_draws (x : Reg) : (s.incrementI x).draws = s.draws := rfl
@[simp] theorem State.incrementI_getV (x : Reg) (r : Reg) : (s.incrementI x).getV r = s.getV r := rfl
@[simp] theorem State.incrementI_memRead (x : Reg) (k : Nat) : (s.incrementI x).memRead k = s.memRead k := rfl
@[simp] theorem State.incrementI_fetch (x : Reg) (k : Nat) : (s.incrementI x).fetch k = s.fetch k := rfl

/-! the placing of a word: `State.placeWord`. -/

@[simp] theorem State.placeWord_v (a : Nat) (w : Word) : (s.placeWord a w).v = s.v := rfl
@[simp] theorem State.placeWord_i (a : Nat) (w : Word) : (s.placeWord a w).i = s.i := rfl
@[simp] theorem State.placeWord_pc (a : Nat) (w : Word) : (s.placeWord a w).pc = s.pc := rfl
@[simp] theorem State.placeWord_sp (a : Nat) (w : Word) : (s.placeWord a w).sp = s.sp := rfl
@[simp] theorem State.placeWord_stack (a : Nat) (w : Word) : (s.placeWord a w).stack = s.stack := rfl
@[simp] theorem State.placeWord_dt (a : Nat) (w : Word) : (s.placeWord a w).dt = s.dt := rfl
@[simp] theorem State.placeWord_st (a : Nat) (w : Word) : (s.placeWord a w).st = s.st := rfl
@[simp] theorem State.placeWord_fb (a : Nat) (w : Word) : (s.placeWord a w).fb = s.fb := rfl
@[simp] theorem State.placeWord_key (a : Nat) (w : Word) : (s.placeWord a w).key = s.key := rfl
@[simp] theorem State.placeWord_await (a : Nat) (w : Word) : (s.placeWord a w).await = s.await := rfl
@[simp] theorem State.placeWord_status (a : Nat) (w : Word) : (s.placeWord a w).status = s.status := rfl
@[simp] theorem State.placeWord_loaded (a : Nat) (w : Word) : (s.placeWord a w).loaded = s.loaded := rfl
@[simp] theorem State.placeWord_cfg (a : Nat) (w : Word) : (s.placeWord a w).cfg = s.cfg := rfl
@[simp] theorem State.placeWord_diag (a : Nat) (w : Word) : (s.placeWord a w).diag = s.diag := rfl
@[simp] theorem State.placeWord_draws (a : Nat) (w : Word) : (s.placeWord a w).draws = s.draws := rfl
@[simp] theorem State.placeWord_getV (a : Nat) (w : Word) (r : Reg) : (s.placeWord a w).getV r = s.getV r := rfl

/-! `tick`: `State.tick`. -/

@[simp] theorem State.tick_v : s.tick.v = s.v := rfl
@[simp] theorem State.tick_i : s.tick.i = s.i := rfl
@[simp] theorem State.tick_pc : s.tick.pc = s.pc := rfl
@[simp] theorem State.tick_sp : s.tick.sp = s.sp := rfl
@[simp] theorem State.tick_stack : s.tick.stack = s.stack := rfl
@[simp] theorem State.tick_dt : s.tick.dt = countDown s.dt := rfl
@[simp] theorem State.tick_st : s.tick.st = countDown s.st := rfl
@[simp] theorem State.tick_mem : s.tick.mem = s.mem := rfl
@[simp] theorem State.tick_fb : s.tick.fb = s.fb := rfl
@[simp] theorem State.tick_key : s.tick.key = s.key := rfl
@[simp] theorem State.tick_await : s.tick.await = s.await := rfl
@[simp] theorem State.tick_status : s.tick.status = s.status := rfl
@[simp] theorem State.tick_loaded : s.tick.loaded = s.loaded := rfl
@[simp] theorem State.tick_cfg : s.tick.cfg = s.cfg := rfl
@[simp] theorem State.tick_diag : s.tick.diag = s.diag := rfl
@[simp] theorem State.tick_draws : s.tick.draws = s.draws := rfl
@[simp] theorem State.tick_getV (r : Reg) : s.tick.getV r = s.getV r := rfl
@[simp] theorem State.tick_memRead (k : Nat) : s.tick.memRead k = s.memRead k := rfl
@[simp] theorem State.tick_fetch (k : Nat) : s.tick.fetch k = s.fetch k := rfl

end Sys2Proof.Machine
end

