-- ==== Sys2Proof/Laws/Ops.lean ====
section
/-! SUPPORT. What each shared operation over registers, memory, flags and operands can do, said once. -/

namespace Sys2Proof.Machine

/-! ### Registers and flags -/

/-- A register read after a register write. -/
@[simp] theorem State.getV_setV (s : State) (x r : Reg) (b : Byte) :
    (s.setV x b).getV r = if r = x then b else s.getV r := by
  unfold State.getV State.setV
  by_cases h : r = x
  · subst h
    simp
  · have : x.val ≠ r.val := fun e => h (Fin.ext e.symm)
    simp [h, this]

@[simp] theorem State.getV_setFlag (s : State) (f : Bool) (r : Reg) :
    (s.setFlag f).getV r = if r = regF then flagByte f else s.getV r := State.getV_setV s regF r _

/-- A result and its flag: VF holds the flag whatever x is, x the result unless it is VF (41_alu R141). -/
@[simp] theorem State.getV_writeResult (s : State) (x r : Reg) (b : Byte) (f : Bool) :
    (s.writeResult x b f).getV r = if r = regF then flagByte f else if r = x then b else s.getV r := by
  simp [State.writeResult]

@[simp] theorem State.getV_addIFlag (s : State) (f : Bool) (r : Reg) :
    (s.addIFlag f).getV r =
      if r = regF ∧ s.cfg.addIOverflowQuirk = .on then flagByte f else s.getV r := by
  unfold State.addIFlag
  rw [State.getV_setV]
  cases s.cfg.addIOverflowQuirk <;> by_cases h : r = regF <;> simp [h]

@[simp] theorem State.incrementI_i (s : State) (x : Reg) :
    (s.incrementI x).i =
      if s.cfg.storeLoadIncrementQuirk = .on then BitVec.ofNat 16 (s.i.toNat + x.val + 1) else s.i := by
  unfold State.incrementI
  cases s.cfg.storeLoadIncrementQuirk <;> simp

theorem flagByte_eq_zero_or_one (f : Bool) : flagByte f = 0 ∨ flagByte f = 1 := by
  cases f <;> simp [flagByte]

@[simp] theorem flagByte_eq_one (f : Bool) : flagByte f = 1 ↔ f = true := by
  cases f <;> simp [flagByte]

/-! ### Operands -/

@[simp] theorem zextAddr_toNat (nnn : Addr) : (zextAddr nnn).toNat = nnn.toNat := by
  simp [zextAddr]; omega

@[simp] theorem zextByte_toNat (b : Byte) : (zextByte b).toNat = b.toNat := by
  simp [zextByte]; omega

@[simp] theorem lowNibble_val (b : Byte) : (lowNibble b).val = b.toNat % 16 := rfl

theorem State.effAddr_lt (s : State) (k : Nat) : s.effAddr k < memSize := Nat.mod_lt _ (by decide)

theorem State.shiftSource_eq (s : State) (x y : Reg) :
    s.shiftSource x y = if s.cfg.shiftQuirk = .vx then s.getV x else s.getV y := by
  unfold State.shiftSource
  cases s.cfg.shiftQuirk <;> simp

theorem State.lowestKey_eq_none {s : State} : s.lowestKey = none ↔ ∀ k : Fin 16, s.key[k.val] = false := by
  simp [State.lowestKey, List.find?_eq_none]

/-! ### Memory -/

/-- A data read after a data write: both addresses are reduced modulo 4096 (20_memory R64). -/
@[simp] theorem State.memRead_memWrite (s : State) (a c : Nat) (b : Byte) :
    (s.memWrite a b).memRead c = if c % memSize = a % memSize then b else s.memRead c := by
  simp [State.memRead]

/-- The canonical form after a data write. -/
theorem State.wf_memWrite {s : State} {a : Nat} {b : Byte} (h : Memory.wf s.mem = true) :
    Memory.wf (s.memWrite a b).mem = true := Memory.wf_write h (Nat.mod_lt _ (by decide))

/-- A word is its two bytes put together again (20_memory R63). -/
@[simp] theorem wordOfBytes_hi_lo (w : Word) : wordOfBytes (Word.hiByte w) (Word.loByte w) = w := by
  apply BitVec.eq_of_getLsbD_eq
  intro j hj
  simp only [wordOfBytes, Word.hiByte, Word.loByte, BitVec.getLsbD_append, BitVec.getLsbD_extractLsb']
  by_cases h : j < 8
  · simp [h]
  · simp [h, show 8 + (j - 8) = j by omega, show j - 8 < 8 by omega]

/-- A placed word is what is fetched there (20_memory R63). -/
theorem State.fetch_placeWord (s : State) (a : Nat) (w : Word) : (s.placeWord a w).fetch a = w := by
  simp [State.placeWord, State.fetch]

/-! ### Block moves -/

/-- What a block store leaves: the bytes below `count` hold the registers, every other byte and every other piece of
state is as before (44_index_memory R215). -/
theorem State.storeBlock_read (s : State) (count : Nat) (h : count ≤ 16) (a : Nat) :
    Memory.read (s.storeBlock count).mem a = Memory.read s.mem a ∨
      ∃ k, k < count ∧ a = s.effAddr k ∧ Memory.read (s.storeBlock count).mem a = s.getV (Fin.ofNat 16 k) := by
  induction count with
  | zero => exact .inl rfl
  | succ c ih =>
    have e : s.storeBlock (c + 1) = (s.storeBlock c).memWrite (s.i.toNat + c) (s.getV (Fin.ofNat 16 c)) := by
      simp [State.storeBlock, List.range_succ]
    rw [e, State.memWrite_mem, Memory.read_write]
    split
    · exact .inr ⟨c, by omega, ‹_›, rfl⟩
    · rcases ih (by omega) with h1 | ⟨k, hk, h1, h2⟩
      · exact .inl h1
      · exact .inr ⟨k, by omega, h1, h2⟩

/-- One more register stored. -/
theorem State.storeBlock_succ (s : State) (c : Nat) :
    s.storeBlock (c + 1) = (s.storeBlock c).memWrite (s.i.toNat + c) (s.getV (Fin.ofNat 16 c)) := by
  simp [State.storeBlock, List.range_succ]

/-- A block store writes memory only. -/
theorem State.storeBlock_eq (s : State) (count : Nat) :
    s.storeBlock count = { s with mem := (s.storeBlock count).mem } := by
  induction count with
  | zero => rfl
  | succ c ih => rw [State.storeBlock_succ, ih]; rfl

/-- The canonical form after a block store. -/
theorem State.wf_storeBlock {s : State} (h : Memory.wf s.mem = true) (count : Nat) :
    Memory.wf (s.storeBlock count).mem = true := by
  induction count with
  | zero => exact h
  | succ c ih => rw [State.storeBlock_succ]; exact State.wf_memWrite ih

/-- One more register loaded. -/
theorem State.loadBlock_succ (s : State) (c : Nat) :
    s.loadBlock (c + 1) = (s.loadBlock c).setV (Fin.ofNat 16 c) (s.memRead (s.i.toNat + c)) := by
  simp [State.loadBlock, List.range_succ]

/-- A block load writes registers only. -/
theorem State.loadBlock_eq (s : State) (count : Nat) :
    s.loadBlock count = { s with v := (s.loadBlock count).v } := by
  induction count with
  | zero => rfl
  | succ c ih => rw [State.loadBlock_succ, ih]; rfl

end Sys2Proof.Machine
end

