-- ==== Sys2Proof/Laws/Draw.lean ====
section
/-! SUPPORT. What one flip of a pixel and one sprite bit do, and the fields a drawing leaves alone. -/

namespace Sys2Proof.Machine

/-- A pixel read after a flip. -/
@[simp] theorem Display.get_flip (fb : Display) (x X : Fin 64) (y Y : Fin 32) :
    Display.get (Display.flip fb x y) X Y = (Display.get fb X Y ^^ decide (X = x ∧ Y = y)) := by
  unfold Display.get Display.flip
  by_cases hy : Y = y
  · subst hy
    by_cases hx : X = x
    · subst hx
      simp [Display.get]
    · have : x.val ≠ X.val := fun e => hx (Fin.ext e.symm)
      simp [hx, this]
  · have : y.val ≠ Y.val := fun e => hy (Fin.ext e.symm)
    simp [hy, this]

@[simp] theorem Display.get_blank (x : Fin 64) (y : Fin 32) : Display.get Display.blank x y = false := by
  simp [Display.get, Display.blank]

/-- Two grids that agree on every pixel are equal. -/
theorem Display.ext_get {fb fb' : Display} (h : ∀ x y, Display.get fb x y = Display.get fb' x y) : fb = fb' := by
  apply Vector.ext
  intro y hy
  apply Vector.ext
  intro x hx
  exact h ⟨x, hx⟩ ⟨y, hy⟩

/-- Where a sprite pixel lands, said as the statements say it (42_display R173). -/
theorem pixelTarget_eq_some {q : DrawWrapQuirk} {x0 y0 c r : Nat} {X : Fin 64} {Y : Fin 32} :
    pixelTarget q (x0 + c) (y0 + r) = some (X, Y) ↔
      (match q with
        | .wrap => (x0 + c) % 64 = X.val ∧ (y0 + r) % 32 = Y.val
        | .clip => x0 + c = X.val ∧ y0 + r = Y.val) := by
  cases q
  · simp [pixelTarget, Fin.ext_iff]
  · simp only [pixelTarget]
    split
    · simp [Fin.ext_iff]
    · simp only [reduceCtorEq, false_iff, not_and]
      intro hx
      omega

/-- What one sprite bit does: a 1 bit toggles the pixel it lands on and collides when that pixel was set; a 0 bit or a
dropped pixel does nothing (42_display R173). -/
theorem drawBit_get (q : DrawWrapQuirk) (px py : Nat) (bit : Bool) (acc : Display × Bool) (X : Fin 64) (Y : Fin 32) :
    Display.get (drawBit q px py bit acc).1 X Y =
      (Display.get acc.1 X Y ^^ (bit && decide (pixelTarget q px py = some (X, Y)))) := by
  unfold drawBit
  split
  · rename_i h
    simp [h]
  · rename_i tx ty h
    rw [h]
    cases bit <;> simp [eq_comm]

theorem drawBit_collision (q : DrawWrapQuirk) (px py : Nat) (bit : Bool) (acc : Display × Bool) :
    (drawBit q px py bit acc).2 = true ↔
      acc.2 = true ∨ bit = true ∧ ∃ X Y, pixelTarget q px py = some (X, Y) ∧ Display.get acc.1 X Y = true := by
  unfold drawBit
  split
  · rename_i h
    simp [h]
  · rename_i tx ty h
    rw [h]
    cases bit <;> simp

end Sys2Proof.Machine
end

