-- ==== Sys2Proof/Laws/PerInstr.lean ====
section
/-! SUPPORT. Statements made for every instruction, one lemma per constructor. -/

namespace Sys2Proof.Laws.EncodeMatchesRow

/-- The encoded word of the instruction belongs to its row of the opcode map: its bits under the row's mask are the
row's pattern (30_encoding R96, R103). -/
def Statement (i : Instr) : Prop := encode i &&& i.row.mask = i.row.pattern

theorem sys (nnn : Addr) : Statement (.sys nnn) := (wordNNN_and_mask _ _).trans rfl

theorem cls : Statement .cls := rfl

theorem ret : Statement .ret := rfl

theorem jp (nnn : Addr) : Statement (.jp nnn) := (wordNNN_and_mask _ _).trans rfl

theorem call (nnn : Addr) : Statement (.call nnn) := (wordNNN_and_mask _ _).trans rfl

theorem seImm (x : Reg) (kk : Byte) : Statement (.seImm x kk) := (wordXKK_and_mask _ _ _).trans rfl

theorem sneImm (x : Reg) (kk : Byte) : Statement (.sneImm x kk) := (wordXKK_and_mask _ _ _).trans rfl

theorem seReg (x y : Reg) : Statement (.seReg x y) := (wordXY_and_mask _ _ _ _).trans rfl

theorem ldImm (x : Reg) (kk : Byte) : Statement (.ldImm x kk) := (wordXKK_and_mask _ _ _).trans rfl

theorem addImm (x : Reg) (kk : Byte) : Statement (.addImm x kk) := (wordXKK_and_mask _ _ _).trans rfl

theorem ldReg (x y : Reg) : Statement (.ldReg x y) := (wordXY_and_mask _ _ _ _).trans rfl

theorem orReg (x y : Reg) : Statement (.orReg x y) := (wordXY_and_mask _ _ _ _).trans rfl

theorem andReg (x y : Reg) : Statement (.andReg x y) := (wordXY_and_mask _ _ _ _).trans rfl

theorem xorReg (x y : Reg) : Statement (.xorReg x y) := (wordXY_and_mask _ _ _ _).trans rfl

theorem addReg (x y : Reg) : Statement (.addReg x y) := (wordXY_and_mask _ _ _ _).trans rfl

theorem sub (x y : Reg) : Statement (.sub x y) := (wordXY_and_mask _ _ _ _).trans rfl

theorem shr (x y : Reg) : Statement (.shr x y) := (wordXY_and_mask _ _ _ _).trans rfl

theorem subn (x y : Reg) : Statement (.subn x y) := (wordXY_and_mask _ _ _ _).trans rfl

theorem shl (x y : Reg) : Statement (.shl x y) := (wordXY_and_mask _ _ _ _).trans rfl

theorem sneReg (x y : Reg) : Statement (.sneReg x y) := (wordXY_and_mask _ _ _ _).trans rfl

theorem ldI (nnn : Addr) : Statement (.ldI nnn) := (wordNNN_and_mask _ _).trans rfl

theorem jpV0 (nnn : Addr) : Statement (.jpV0 nnn) := (wordNNN_and_mask _ _).trans rfl

theorem rnd (x : Reg) (kk : Byte) : Statement (.rnd x kk) := (wordXKK_and_mask _ _ _).trans rfl

theorem drw (x y : Reg) (n : Nibble) : Statement (.drw x y n) := (wordXYN_and_mask _ _ _ _).trans rfl

theorem skp (x : Reg) : Statement (.skp x) := (wordX_and_mask _ _ _).trans rfl

theorem sknp (x : Reg) : Statement (.sknp x) := (wordX_and_mask _ _ _).trans rfl

theorem ldVxDT (x : Reg) : Statement (.ldVxDT x) := (wordX_and_mask _ _ _).trans rfl

theorem ldVxK (x : Reg) : Statement (.ldVxK x) := (wordX_and_mask _ _ _).trans rfl

theorem ldDTVx (x : Reg) : Statement (.ldDTVx x) := (wordX_and_mask _ _ _).trans rfl

theorem ldSTVx (x : Reg) : Statement (.ldSTVx x) := (wordX_and_mask _ _ _).trans rfl

theorem addI (x : Reg) : Statement (.addI x) := (wordX_and_mask _ _ _).trans rfl

theorem ldF (x : Reg) : Statement (.ldF x) := (wordX_and_mask _ _ _).trans rfl

theorem ldB (x : Reg) : Statement (.ldB x) := (wordX_and_mask _ _ _).trans rfl

theorem storeRegs (x : Reg) : Statement (.storeRegs x) := (wordX_and_mask _ _ _).trans rfl

theorem loadRegs (x : Reg) : Statement (.loadRegs x) := (wordX_and_mask _ _ _).trans rfl

end Sys2Proof.Laws.EncodeMatchesRow
end

