-- ==== Sys2Proof/Laws/Step.lean ====
section
/-! SUPPORT. What a step can do, said once. -/

namespace Sys2Proof.Machine

/-- A step of a loaded, running engine that can fetch runs the fetched word. -/
theorem step_of_canFetch {s : State} (hl : s.loaded = true) (hr : s.status = .running) (hf : s.canFetch = true) :
    step s = s.runWord (s.fetch s.pc.toNat) := by
  simp [step, State.cycle, hl, hr, hf]

theorem step_of_halted {s : State} {c : FatalFault} (hl : s.loaded = true) (hh : s.status = .halted c) :
    step s = .next s := by
  simp [step, State.cycle, hl, hh]

theorem step_of_not_canFetch {s : State} (hl : s.loaded = true) (hr : s.status = .running)
    (hf : s.canFetch = false) : step s = .next (s.raise .pcOutOfBounds) := by
  simp [step, State.cycle, hl, hr, hf]

theorem step_of_not_loaded {s : State} (hl : s.loaded = false) : step s = .refused .stepBeforeLoad := by
  simp [step, State.cycle, hl]

theorem runWord_of_instr {s : State} {w : Word} {i : Instr} (h : decode w = .instr i) :
    s.runWord w = exec i s.advance := by
  simp [State.runWord, h]

theorem runWord_of_unknown {s : State} {w u : Word} (h : decode w = .unknown u) :
    s.runWord w = .next (s.advance.report s.pc u) := by
  simp [State.runWord, h, execUnknown]

/-- Everything a step that answers a next state can have done (10_state R39). -/
theorem step_cases {s t : State} (h : step s = .next t) :
    s.loaded = true ∧
      ((∃ c, s.status = .halted c ∧ t = s) ∨
        (s.status = .running ∧ s.canFetch = false ∧ t = s.raise .pcOutOfBounds) ∨
        (s.status = .running ∧ s.canFetch = true ∧ ∃ i, decode (s.fetch s.pc.toNat) = .instr i ∧
          exec i s.advance = .next t) ∨
        (s.status = .running ∧ s.canFetch = true ∧ ∃ w, decode (s.fetch s.pc.toNat) = .unknown w ∧
          t = s.advance.report s.pc w)) := by
  cases hl : s.loaded with
  | false => simp [step_of_not_loaded hl] at h
  | true =>
    refine ⟨rfl, ?_⟩
    cases hs : s.status with
    | halted c =>
      rw [step_of_halted hl hs] at h
      exact .inl ⟨c, rfl, by simpa using h.symm⟩
    | running =>
      cases hf : s.canFetch with
      | false =>
        rw [step_of_not_canFetch hl hs hf] at h
        exact .inr (.inl ⟨rfl, rfl, by simpa using h.symm⟩)
      | true =>
        rw [step_of_canFetch hl hs hf] at h
        cases hd : decode (s.fetch s.pc.toNat) with
        | instr i => exact .inr (.inr (.inl ⟨rfl, rfl, i, rfl, by rwa [runWord_of_instr hd] at h⟩))
        | unknown w =>
          rw [runWord_of_unknown hd] at h
          exact .inr (.inr (.inr ⟨rfl, rfl, w, rfl, by simpa using h.symm⟩))

/-- The placed instruction is what the next step runs (log 9). -/
theorem step_readyToRun (s : State) (w : Word) :
    step (s.readyToRun w) = (s.readyToRun w).runWord w := by
  have hf : (s.readyToRun w).canFetch = true := by
    show decide (s.fetchSlot.toNat ≤ 0xFFE) = true
    unfold State.fetchSlot
    split
    · simpa [State.canFetch] using ‹s.canFetch = true›
    · rfl
  rw [step_of_canFetch rfl rfl hf]
  exact congrArg _ (State.fetch_placeWord s _ w)

/-- No instruction ends in a fault or a refusal: the fatal faults are next states (60_exceptions R232). -/
theorem exec_next (i : Instr) (s : State) : ∃ t, exec i s = .next t := by
  cases i with
  | ret =>
    show ∃ t, execRet s = .next t
    unfold execRet
    split <;> exact ⟨_, rfl⟩
  | call nnn =>
    show ∃ t, execCall nnn s = .next t
    unfold execCall
    split <;> exact ⟨_, rfl⟩
  | ldVxK x =>
    show ∃ t, execLdVxK x s = .next t
    unfold execLdVxK
    split <;> exact ⟨_, rfl⟩
  | _ => exact ⟨_, rfl⟩

end Sys2Proof.Machine
end

