-- ==== Sys2Proof/Machine/Asm.lean ====
section
/-! DEFINITION. The spelling of the instructions in the mnemonic syntax (30_encoding R104). How a literal is written is
the model's own choice (30_encoding R105; log 34). -/

namespace Sys2Proof.Machine

/-- One hexadecimal digit. -/
def hexDigit (d : Nat) : String := (["0", "1", "2", "3", "4", "5", "6", "7"] ++
  ["8", "9", "A", "B", "C", "D", "E", "F"]).getD d ""

/-- A register operand, `V0` to `VF`. -/
def asmReg (x : Reg) : String := "V" ++ hexDigit x.val

/-- A byte operand: 0x and two hexadecimal digits. Mark: DESIGN CHOICE, safe (log 34). -/
def asmByte (b : Byte) : String := "0x" ++ hexDigit (b.toNat / 16) ++ hexDigit (b.toNat % 16)

/-- An address operand: 0x and three hexadecimal digits. Mark: DESIGN CHOICE, safe (log 34). -/
def asmAddr (a : Addr) : String :=
  "0x" ++ hexDigit (a.toNat / 256) ++ hexDigit (a.toNat / 16 % 16) ++ hexDigit (a.toNat % 16)

/-- A nibble operand: one bare hexadecimal digit, A for 10. Mark: DESIGN CHOICE, safe (log 34). -/
def asmNibble (n : Nibble) : String := hexDigit n.toNat

/-- Mnemonic, then the operands separated by commas, destination first (30_encoding R104). SHR and SHL are written
with both registers, since the word carries both (30_encoding R106). How the literals are written: DESIGN CHOICE, safe
(log 34). -/
def asm : Instr → String
  | .sys nnn => "SYS " ++ asmAddr nnn
  | .cls => "CLS"
  | .ret => "RET"
  | .jp nnn => "JP " ++ asmAddr nnn
  | .call nnn => "CALL " ++ asmAddr nnn
  | .seImm x kk => "SE " ++ asmReg x ++ ", " ++ asmByte kk
  | .sneImm x kk => "SNE " ++ asmReg x ++ ", " ++ asmByte kk
  | .seReg x y => "SE " ++ asmReg x ++ ", " ++ asmReg y
  | .ldImm x kk => "LD " ++ asmReg x ++ ", " ++ asmByte kk
  | .addImm x kk => "ADD " ++ asmReg x ++ ", " ++ asmByte kk
  | .ldReg x y => "LD " ++ asmReg x ++ ", " ++ asmReg y
  | .orReg x y => "OR " ++ asmReg x ++ ", " ++ asmReg y
  | .andReg x y => "AND " ++ asmReg x ++ ", " ++ asmReg y
  | .xorReg x y => "XOR " ++ asmReg x ++ ", " ++ asmReg y
  | .addReg x y => "ADD " ++ asmReg x ++ ", " ++ asmReg y
  | .sub x y => "SUB " ++ asmReg x ++ ", " ++ asmReg y
  | .shr x y => "SHR " ++ asmReg x ++ ", " ++ asmReg y
  | .subn x y => "SUBN " ++ asmReg x ++ ", " ++ asmReg y
  | .shl x y => "SHL " ++ asmReg x ++ ", " ++ asmReg y
  | .sneReg x y => "SNE " ++ asmReg x ++ ", " ++ asmReg y
  | .ldI nnn => "LD I, " ++ asmAddr nnn
  | .jpV0 nnn => "JP V0, " ++ asmAddr nnn
  | .rnd x kk => "RND " ++ asmReg x ++ ", " ++ asmByte kk
  | .drw x y n => "DRW " ++ asmReg x ++ ", " ++ asmReg y ++ ", " ++ asmNibble n
  | .skp x => "SKP " ++ asmReg x
  | .sknp x => "SKNP " ++ asmReg x
  | .ldVxDT x => "LD " ++ asmReg x ++ ", DT"
  | .ldVxK x => "LD " ++ asmReg x ++ ", K"
  | .ldDTVx x => "LD DT, " ++ asmReg x
  | .ldSTVx x => "LD ST, " ++ asmReg x
  | .addI x => "ADD I, " ++ asmReg x
  | .ldF x => "LD F, " ++ asmReg x
  | .ldB x => "LD B, " ++ asmReg x
  | .storeRegs x => "LD [I], " ++ asmReg x
  | .loadRegs x => "LD " ++ asmReg x ++ ", [I]"

end Sys2Proof.Machine
end

