-- ==== Sys2Proof/Tests/Slice0.lean ====
section
/-! SUPPORT. Tests: ill-formed terms, decoding of words written out from 30_encoding R96 and 95_test_vectors 2.1, one-step
vectors of 95_test_vectors 2.2 to 2.7, and for every statement with hypotheses a state and operands that meet them. -/

namespace Sys2Proof.Tests

open Sys2Proof Sys2Proof.Machine

/-! ### Helpers -/

/-- The configuration of most vectors of 95_test_vectors: quirks vx, off, wrap, off. -/
def plain : Cfg where
  loadOffset := 0x200
  shiftQuirk := .vx
  storeLoadIncrementQuirk := .off
  drawWrapQuirk := .wrap
  addIOverflowQuirk := .off

/-- The other value of every quirk. -/
def quirky : Cfg where
  loadOffset := 0x200
  shiftQuirk := .vy
  storeLoadIncrementQuirk := .on
  drawWrapQuirk := .clip
  addIOverflowQuirk := .on

/-- A loaded engine with some registers set. -/
def ready (c : Cfg) (vs : List (Reg × Byte)) : State :=
  vs.foldl (fun s e => s.setV e.1 e.2) { State.resetWith c with loaded := true }

/-- An answer is a next state that passes the check. -/
def nextSuch (o : Result) (check : State → Bool) : Bool :=
  match o with
  | .next t => check t
  | .fault _ => false
  | .refused _ => false

/-- An answer is this refusal. -/
def refuses (o : Result) (r : Refusal) : Bool :=
  match o with
  | .next _ => false
  | .fault _ => false
  | .refused q => decide (q = r)

/-- One step of the word placed at PC answers a next state that passes the check. -/
def after (s : State) (w : Nat) (check : State → Bool) : Bool := nextSuch (step (s.withFetchWord 16 w)) check

theorem exists_of_nextSuch {o : Result} {check : State → Bool} (h : nextSuch o check = true) :
    ∃ t, o = .next t ∧ check t = true := by
  cases o with
  | next t => exact ⟨t, rfl, h⟩
  | fault f => cases h
  | refused r => cases h

theorem exists_of_decide_nextSuch {o : Result} {p : State → Prop} [DecidablePred p]
    (h : nextSuch o (fun t => decide (p t)) = true) : ∃ t, o = .next t ∧ p t := by
  obtain ⟨t, e, h⟩ := exists_of_nextSuch h
  exact ⟨t, e, of_decide_eq_true h⟩

/-- The sprite bytes of the display vectors at 0x300, I pointing to them. -/
def withSprite (s : State) (rows : List Byte) : State :=
  (({ s with mem := Memory.writeBytes s.mem 0x300 rows } : State).setI 0x300)

/-- The columns of a row that are lit. -/
def litColumns (s : State) (y : Fin 32) : List Nat :=
  ((List.finRange 64).filter (fun x => Display.get s.fb x y)).map (fun x => x.val)

/-! ### Well-formedness -/

/-- The two `SYS` terms whose words are CLS and RET are refused (30_encoding R103). -/
theorem test_ill_formed_sys_cls : (Instr.sys 0x0E0).wellFormed = false := by decide

theorem test_ill_formed_sys_ret : (Instr.sys 0x0EE).wellFormed = false := by decide

theorem test_well_formed_sys_neighbours :
    [0x0DF, 0x0E1, 0x0ED, 0x0EF, 0x000, 0xFFF].all (fun n => (Instr.sys (BitVec.ofNat 12 n)).wellFormed) = true := by
  decide

/-! ### Decoding: one word of every row, written out from its pattern (95_test_vectors 2.1) -/

theorem test_decode_sys : decode 0x00E1 = .instr (.sys 0x0E1) ∧ encode (.sys 0x0E1) = 0x00E1 := by decide

theorem test_decode_cls : decode 0x00E0 = .instr (.cls) ∧ encode (.cls) = 0x00E0 := by decide

theorem test_decode_ret : decode 0x00EE = .instr (.ret) ∧ encode (.ret) = 0x00EE := by decide

theorem test_decode_jp : decode 0x1ABC = .instr (.jp 0xABC) ∧ encode (.jp 0xABC) = 0x1ABC := by decide

theorem test_decode_call : decode 0x2ABC = .instr (.call 0xABC) ∧ encode (.call 0xABC) = 0x2ABC := by decide

theorem test_decode_se_imm : decode 0x3A12 = .instr (.seImm 0xA 0x12) ∧ encode (.seImm 0xA 0x12) = 0x3A12 := by decide

theorem test_decode_sne_imm : decode 0x4A12 = .instr (.sneImm 0xA 0x12) ∧ encode (.sneImm 0xA 0x12) = 0x4A12 := by decide

theorem test_decode_se_reg : decode 0x5AB0 = .instr (.seReg 0xA 0xB) ∧ encode (.seReg 0xA 0xB) = 0x5AB0 := by decide

theorem test_decode_ld_imm : decode 0x6A12 = .instr (.ldImm 0xA 0x12) ∧ encode (.ldImm 0xA 0x12) = 0x6A12 := by decide

theorem test_decode_add_imm : decode 0x7A12 = .instr (.addImm 0xA 0x12) ∧ encode (.addImm 0xA 0x12) = 0x7A12 := by decide

theorem test_decode_ld_reg : decode 0x8AB0 = .instr (.ldReg 0xA 0xB) ∧ encode (.ldReg 0xA 0xB) = 0x8AB0 := by decide

theorem test_decode_or : decode 0x8AB1 = .instr (.orReg 0xA 0xB) ∧ encode (.orReg 0xA 0xB) = 0x8AB1 := by decide

theorem test_decode_and : decode 0x8AB2 = .instr (.andReg 0xA 0xB) ∧ encode (.andReg 0xA 0xB) = 0x8AB2 := by decide

theorem test_decode_xor : decode 0x8AB3 = .instr (.xorReg 0xA 0xB) ∧ encode (.xorReg 0xA 0xB) = 0x8AB3 := by decide

theorem test_decode_add_reg : decode 0x8AB4 = .instr (.addReg 0xA 0xB) ∧ encode (.addReg 0xA 0xB) = 0x8AB4 := by decide

theorem test_decode_sub : decode 0x8AB5 = .instr (.sub 0xA 0xB) ∧ encode (.sub 0xA 0xB) = 0x8AB5 := by decide

theorem test_decode_shr : decode 0x8AB6 = .instr (.shr 0xA 0xB) ∧ encode (.shr 0xA 0xB) = 0x8AB6 := by decide

theorem test_decode_subn : decode 0x8AB7 = .instr (.subn 0xA 0xB) ∧ encode (.subn 0xA 0xB) = 0x8AB7 := by decide

theorem test_decode_shl : decode 0x8ABE = .instr (.shl 0xA 0xB) ∧ encode (.shl 0xA 0xB) = 0x8ABE := by decide

theorem test_decode_sne_reg : decode 0x9AB0 = .instr (.sneReg 0xA 0xB) ∧ encode (.sneReg 0xA 0xB) = 0x9AB0 := by decide

theorem test_decode_ld_i : decode 0xA123 = .instr (.ldI 0x123) ∧ encode (.ldI 0x123) = 0xA123 := by decide

theorem test_decode_jp_v0 : decode 0xB123 = .instr (.jpV0 0x123) ∧ encode (.jpV0 0x123) = 0xB123 := by decide

theorem test_decode_rnd : decode 0xC1F0 = .instr (.rnd 1 0xF0) ∧ encode (.rnd 1 0xF0) = 0xC1F0 := by decide

theorem test_decode_drw : decode 0xDAB5 = .instr (.drw 0xA 0xB 5) ∧ encode (.drw 0xA 0xB 5) = 0xDAB5 := by decide

theorem test_decode_skp : decode 0xE19E = .instr (.skp 1) ∧ encode (.skp 1) = 0xE19E := by decide

theorem test_decode_sknp : decode 0xE1A1 = .instr (.sknp 1) ∧ encode (.sknp 1) = 0xE1A1 := by decide

theorem test_decode_ld_vx_dt : decode 0xF107 = .instr (.ldVxDT 1) ∧ encode (.ldVxDT 1) = 0xF107 := by decide

theorem test_decode_ld_vx_k : decode 0xF10A = .instr (.ldVxK 1) ∧ encode (.ldVxK 1) = 0xF10A := by decide

theorem test_decode_ld_dt_vx : decode 0xF115 = .instr (.ldDTVx 1) ∧ encode (.ldDTVx 1) = 0xF115 := by decide

theorem test_decode_ld_st_vx : decode 0xF118 = .instr (.ldSTVx 1) ∧ encode (.ldSTVx 1) = 0xF118 := by decide

theorem test_decode_add_i : decode 0xF11E = .instr (.addI 1) ∧ encode (.addI 1) = 0xF11E := by decide

theorem test_decode_ld_f : decode 0xF129 = .instr (.ldF 1) ∧ encode (.ldF 1) = 0xF129 := by decide

theorem test_decode_ld_b : decode 0xF133 = .instr (.ldB 1) ∧ encode (.ldB 1) = 0xF133 := by decide

theorem test_decode_store_regs : decode 0xF155 = .instr (.storeRegs 1) ∧ encode (.storeRegs 1) = 0xF155 := by decide

theorem test_decode_load_regs : decode 0xF165 = .instr (.loadRegs 1) ∧ encode (.loadRegs 1) = 0xF165 := by decide

/-- The words of the vectors outside the opcode map, each beside a neighbour inside it. -/
theorem test_decode_unknown :
    [0x5AB1, 0x8AB8, 0x8ABD, 0x8ABF, 0x9AB1, 0xE19F, 0xF100, 0xFF75].all
      (fun n => decode (BitVec.ofNat 16 n) == .unknown (BitVec.ofNat 16 n)) = true := by decide

/-- Bytes come big-endian, two to a word (20_memory R63); table bits come least significant first. -/
theorem test_decode_bytes : decodeBytes [0x60, 0x05, 0x61] = .ok (.ldImm 0 5, [0x61]) ∧ decodeBytes [0x60] = .error .truncated ∧
    decodeTableWord 16 0x6005 = some (.ldImm 0 5) ∧ decodeTableWord 16 0x5AB1 = none := by decide

/-! ### One step: control flow (95_test_vectors 2.2) -/

theorem test_sys : after (ready plain []) 0x0123 (fun t => t.pc == 0x202 && t.status == .running) = true := by decide

theorem test_jp : after ((ready plain []).setPc 0x20A) 0x1204 (fun t => t.pc == 0x204) = true := by decide

theorem test_jp_last : after (ready plain []) 0x1FFF (fun t => t.pc == 0xFFF && t.status == .running) = true := by decide

theorem test_call : after (({ ready plain [] with sp := 15 } : State).setPc 0x204) 0x2210
    (fun t => t.pc == 0x210 && t.sp == 16 && t.stack[15] == 0x206) = true := by decide

theorem test_call_full : after (({ ready plain [] with sp := 16 } : State).setPc 0x204) 0x2210
    (fun t => t.status == .halted .stackOverflow && t.pc == 0x206 && t.sp == 16) = true := by decide

theorem test_ret : after (({ ready plain [] with sp := 1, stack := (Vector.replicate 16 0).set 0 0x206 } : State).setPc 0x212)
    0x00EE (fun t => t.pc == 0x206 && t.sp == 0) = true := by decide

theorem test_ret_empty : after ((ready plain []).setPc 0x212) 0x00EE
    (fun t => t.status == .halted .stackUnderflow && t.pc == 0x214 && t.sp == 0) = true := by decide

theorem test_se_imm_taken : after ((ready plain []).setPc 0x208) 0x3100 (fun t => t.pc == 0x20C) = true := by decide

theorem test_se_imm_not_taken : after ((ready plain [(1, 1)]).setPc 0x208) 0x3100 (fun t => t.pc == 0x20A) = true := by
  decide

theorem test_sne_imm_taken : after ((ready plain [(1, 1)]).setPc 0x208) 0x4100 (fun t => t.pc == 0x20C) = true := by
  decide

theorem test_sne_imm_not_taken : after ((ready plain []).setPc 0x208) 0x4100 (fun t => t.pc == 0x20A) = true := by decide

theorem test_se_reg_taken : after ((ready plain [(1, 0x7F), (2, 0x7F)]).setPc 0x208) 0x5120 (fun t => t.pc == 0x20C) = true := by
  decide

theorem test_se_reg_not_taken : after ((ready plain [(1, 1), (2, 2)]).setPc 0x208) 0x5120 (fun t => t.pc == 0x20A) = true := by
  decide

theorem test_sne_reg_taken : after ((ready plain [(1, 1), (2, 2)]).setPc 0x208) 0x9120 (fun t => t.pc == 0x20C) = true := by
  decide

theorem test_sne_reg_not_taken : after ((ready plain []).setPc 0x208) 0x9110 (fun t => t.pc == 0x20A) = true := by decide

theorem test_jp_v0 : after (ready plain [(0, 0x04)]) 0xB300 (fun t => t.pc == 0x304) = true := by decide

theorem test_jp_v0_above_4096 : after (ready plain [(0, 0xFF)]) 0xBFFF (fun t => t.pc == 0x10FE && t.status == .running) = true := by
  decide

/-! ### One step: arithmetic and logic (95_test_vectors 2.3) -/

theorem test_ld_imm : after (ready plain []) 0x6F07 (fun t => t.getV 0xF == 7) = true := by decide

theorem test_add_imm_wraps : after (ready plain [(1, 0xFF), (0xF, 0x55)]) 0x7101
    (fun t => t.getV 1 == 0 && t.getV 0xF == 0x55) = true := by decide

theorem test_add_imm_into_vf : after (ready plain [(0xF, 0xFF)]) 0x7F02 (fun t => t.getV 0xF == 1) = true := by decide

theorem test_ld_reg : after (ready plain [(3, 0xAB)]) 0x8230 (fun t => t.getV 2 == 0xAB && t.getV 3 == 0xAB) = true := by
  decide

theorem test_or : after (ready plain [(0, 0xCC), (1, 0xAA), (0xF, 0x55)]) 0x8011
    (fun t => t.getV 0 == 0xEE && t.getV 0xF == 0x55) = true := by decide

theorem test_and : after (ready plain [(0, 0xCC), (1, 0xAA), (0xF, 0x55)]) 0x8012
    (fun t => t.getV 0 == 0x88 && t.getV 0xF == 0x55) = true := by decide

theorem test_xor : after (ready plain [(0, 0xCC), (1, 0xAA), (0xF, 0x55)]) 0x8013
    (fun t => t.getV 0 == 0x66 && t.getV 0xF == 0x55) = true := by decide

theorem test_add_wraps : after (ready plain [(0, 0xFF), (1, 0x01)]) 0x8014
    (fun t => t.getV 0 == 0 && t.getV 0xF == 1) = true := by decide

theorem test_add_carry_wins : after (ready plain [(0xF, 0x01), (1, 0x01)]) 0x8F14 (fun t => t.getV 0xF == 0) = true := by
  decide

theorem test_sub_borrow : after (ready plain [(0, 3), (1, 5)]) 0x8015
    (fun t => t.getV 0 == 0xFE && t.getV 0xF == 0) = true := by decide

theorem test_sub_equal : after (ready plain [(0, 7), (1, 7)]) 0x8015
    (fun t => t.getV 0 == 0 && t.getV 0xF == 1) = true := by decide

theorem test_subn : after (ready plain [(0, 3), (1, 5)]) 0x8017
    (fun t => t.getV 0 == 2 && t.getV 0xF == 1) = true := by decide

theorem test_subn_borrow : after (ready plain [(0, 0xFF), (1, 0x01)]) 0x8017
    (fun t => t.getV 0 == 2 && t.getV 0xF == 0) = true := by decide

theorem test_shr_vx : after (ready plain [(0, 0x81), (1, 0x7E)]) 0x8016
    (fun t => t.getV 0 == 0x40 && t.getV 1 == 0x7E && t.getV 0xF == 1) = true := by decide

theorem test_shr_vy : after (ready quirky [(0, 0x00), (1, 0xFF)]) 0x8016
    (fun t => t.getV 0 == 0x7F && t.getV 1 == 0xFF && t.getV 0xF == 1) = true := by decide

theorem test_shl_vx : after (ready plain [(0, 0x81), (1, 0x7E)]) 0x801E
    (fun t => t.getV 0 == 0x02 && t.getV 1 == 0x7E && t.getV 0xF == 1) = true := by decide

theorem test_shl_vy : after (ready quirky [(0, 0x81), (1, 0x7E)]) 0x801E
    (fun t => t.getV 0 == 0xFC && t.getV 1 == 0x7E && t.getV 0xF == 0) = true := by decide

/-- Word C000 gives 0 for every byte drawn. -/
theorem test_rnd_mask_zero (s : State) : ∃ t, exec (.rnd 0 0x00) s = .next t ∧ t.getV 0 = 0 := ⟨_, rfl, by simp⟩

/-- Word C0FF gives the byte drawn, and the next draw is another free byte. -/
theorem test_rnd_mask_all (s : State) :
    ∃ t, exec (.rnd 0 0xFF) s = .next t ∧ t.getV 0 = s.randomByte ∧ t.draws = s.draws + 1 :=
  ⟨_, rfl, by rw [State.countDraw_getV, State.getV_setV, if_pos rfl]; exact BitVec.and_allOnes, rfl⟩

/-! ### One step: display (95_test_vectors 2.4) -/

theorem test_cls : after { ready plain [(0xF, 0x55)] with fb := Display.flip Display.blank 63 31 } 0x00E0
    (fun t => (litColumns t 31).isEmpty && t.getV 0xF == 0x55) = true := by decide

theorem test_drw_wrap : after (withSprite (ready plain [(1, 60)]) [0xFF]) 0xD121
    (fun t => litColumns t 0 == [0, 1, 2, 3, 60, 61, 62, 63] && t.getV 0xF == 0) = true := by decide

theorem test_drw_clip : after (withSprite { ready quirky [(1, 60)] with fb := Display.flip Display.blank 0 0 } [0xFF]) 0xD121
    (fun t => litColumns t 0 == [0, 60, 61, 62, 63] && t.getV 0xF == 0) = true := by decide

/-! ### One step: keypad and timers (95_test_vectors 2.5) -/

theorem test_skp_low_nibble : after { ready plain [(3, 0x17)] with key := (Vector.replicate 16 false).set 7 true } 0xE39E
    (fun t => t.pc == 0x204) = true := by decide

theorem test_skp_up : after (ready plain [(3, 0x07)]) 0xE39E (fun t => t.pc == 0x202) = true := by decide

theorem test_sknp_down : after { ready plain [(3, 0x07)] with key := (Vector.replicate 16 false).set 7 true } 0xE3A1
    (fun t => t.pc == 0x202) = true := by decide

theorem test_sknp_up : after (ready plain [(3, 0x07)]) 0xE3A1 (fun t => t.pc == 0x204) = true := by decide

theorem test_key_wait : after (ready plain [(3, 0x55)]) 0xF30A
    (fun t => t.pc == 0x200 && t.await && t.getV 3 == 0x55) = true := by decide

theorem test_key_wait_lowest :
    after { ready plain [] with key := ((Vector.replicate 16 false).set 7 true).set 0xB true, await := true } 0xF30A
      (fun t => t.pc == 0x202 && !t.await && t.getV 3 == 7) = true := by decide

theorem test_ld_vx_dt : after { ready plain [] with dt := 0x2A } 0xF107 (fun t => t.getV 1 == 0x2A && t.dt == 0x2A) = true := by
  decide

theorem test_ld_dt_vx : after (ready plain [(0, 3)]) 0xF015 (fun t => t.dt == 3 && t.st == 0) = true := by decide

theorem test_ld_st_vx : after (ready plain [(0, 2)]) 0xF018 (fun t => t.st == 2 && t.dt == 0 && t.soundActive) = true := by
  decide

theorem test_tick : nextSuch (transact .tick { ready plain [] with dt := 0xFF, st := 1 })
    (fun t => t.dt == 0xFE && t.st == 0 && !t.soundActive) = true := by decide

theorem test_set_key : nextSuch (transact (.setKey 15 true) (ready plain [])) (fun t => t.key[15] && !t.key[14]) = true ∧
    refuses (transact (.setKey 16 true) (ready plain [])) .keyOutOfRange = true := by decide

/-! ### One step: index register and memory (95_test_vectors 2.6) -/

theorem test_ld_i : after (ready plain []) 0xAFFF (fun t => t.i == 0x0FFF) = true := by decide

theorem test_add_i_off : after ((ready plain [(2, 3), (0xF, 0x55)]).setI 0x0FFE) 0xF21E
    (fun t => t.i == 0x1001 && t.getV 0xF == 0x55) = true := by decide

theorem test_add_i_on : after ((ready quirky [(0xF, 0x01)]).setI 0x0FFF) 0xFF1E
    (fun t => t.i == 0x1000 && t.getV 0xF == 1) = true := by decide

/-- The glyph of 0x1A is that of the low nibble A, at FONT_BASE + 50. -/
theorem test_ld_f (s : State) (h : s.getV 0 = 0x1A) :
    ∃ t, exec (.ldF 0) s = .next t ∧ t.i = BitVec.ofNat 16 (Config.fontBase.val + 50) :=
  ⟨_, rfl, by rw [State.setI_i, h]; rfl⟩

theorem test_ld_b : after ((ready plain [(0, 254)]).setI 0x300) 0xF033
    (fun t => t.memRead 0x300 == 2 && t.memRead 0x301 == 5 && t.memRead 0x302 == 4 && t.i == 0x300) = true := by decide

theorem test_ld_b_above_4096 : after ((ready quirky [(0, 128)]).setI 0x1300) 0xF033
    (fun t => t.memRead 0x300 == 1 && t.memRead 0x301 == 2 && t.memRead 0x302 == 8 && t.i == 0x1300) = true := by decide

theorem test_store_regs : after ((ready quirky [(0, 0x11), (1, 0x22), (2, 0x33), (3, 0x44)]).setI 0x300) 0xF255
    (fun t => t.memRead 0x300 == 0x11 && t.memRead 0x302 == 0x33 && t.memRead 0x303 == 0 && t.i == 0x0303) = true := by
  decide

theorem test_store_regs_still : after ((ready plain [(0, 0x9C)]).setI 0x400) 0xF055
    (fun t => t.memRead 0x400 == 0x9C && t.memRead 0x401 == 0 && t.i == 0x0400) = true := by decide

theorem test_load_regs : after (withSprite (ready plain [(3, 0x77)]) [2, 5, 4, 9]) 0xF265
    (fun t => t.getV 0 == 2 && t.getV 1 == 5 && t.getV 2 == 4 && t.getV 3 == 0x77 && t.i == 0x300) = true := by decide

theorem test_load_regs_increment : after (withSprite (ready quirky []) [2, 5, 4]) 0xF265
    (fun t => t.getV 2 == 4 && t.i == 0x303) = true := by decide

/-! ### Faults, reset and load (95_test_vectors 2.7) -/

theorem test_step_at_0xFFF : nextSuch (step ((ready plain []).setPc 0xFFF))
    (fun t => t == { (ready plain []).setPc 0xFFF with status := .halted .pcOutOfBounds }) = true := by decide

theorem test_step_at_0xFFE : after ((ready plain []).setPc 0xFFE) 0x6005
    (fun t => t.getV 0 == 5 && t.pc == 0x1000 && t.status == .running) = true := by decide

theorem test_unknown_word : after (ready plain []) 0x5121
    (fun t => t.pc == 0x202 && t.diag == [⟨0x200, 0x5121⟩]) = true := by decide

theorem test_step_before_load : refuses (step (State.resetWith plain)) .stepBeforeLoad = true := by decide

theorem test_load : nextSuch (transact (.load [0x12, 0x00]) (State.resetWith plain))
    (fun t => t.loaded && t.memRead 0x200 == 0x12 && t.memRead 0x201 == 0 && t.pc == 0x200) = true := by decide

theorem test_load_empty : nextSuch (transact (.load []) (State.resetWith plain)) (fun t => t == State.resetWith plain) = true := by decide

/-! ### Witnesses: what the hypotheses of each statement are met by -/

/-- A loaded engine with the word at PC. -/
def withWord (s : State) (w : Nat) : State := s.withFetchWord 16 w

/-- `DecodeOfEncode`, `EncodeOfDecode`: well-formed terms at the edges of the SYS exceptions. -/
theorem test_wit_encoding : (Instr.sys 0x0EF).wellFormed = true ∧ decode 0x00EF = .instr (.sys 0x0EF) := by decide

/-- `FetchIsBigEndian`: the highest address of a fetch, and the first that has none. -/
theorem test_wit_fetch : 0xFFE ≤ 0xFFE ∧
    ((ready plain []).setPc 0xFFF).loaded = true ∧ ((ready plain []).setPc 0xFFF).status = .running ∧
    0xFFE < ((ready plain []).setPc 0xFFF).pc.toNat ∧
    Memory.read (withWord ((ready plain []).setPc 0xFFE) 0x6005).mem 0xFFE = 0x60 ∧
    Memory.read (withWord ((ready plain []).setPc 0xFFE) 0x6005).mem 0xFFF = 0x05 := by decide

/-- `StepRunsDecodedInstruction`: its five clauses. -/
theorem test_wit_step_unloaded : (State.resetWith plain).loaded = false := by decide

theorem test_wit_step_halted : ((ready plain []).raise .stackOverflow).loaded = true ∧
    ((ready plain []).raise .stackOverflow).status = .halted .stackOverflow := by decide

theorem test_wit_step_out_of_bounds : ((ready plain []).setPc 0x10FE).loaded = true ∧
    ((ready plain []).setPc 0x10FE).status = .running ∧ 0xFFE < ((ready plain []).setPc 0x10FE).pc.toNat := by decide

theorem test_wit_step_instr : (withWord ((ready plain []).setPc 0xFFE) 0x3005).loaded = true ∧
    (withWord ((ready plain []).setPc 0xFFE) 0x3005).status = .running ∧
    (withWord ((ready plain []).setPc 0xFFE) 0x3005).pc.toNat ≤ 0xFFE ∧
    decode ((withWord ((ready plain []).setPc 0xFFE) 0x3005).fetch 0xFFE) = .instr (.seImm 0 5) := by decide

/-- Also for `UnknownWordIsNoOp` and `LoadedStepAnswers`. -/
theorem test_wit_step_unknown : (withWord (ready plain []) 0x5121).loaded = true ∧
    (withWord (ready plain []) 0x5121).status = .running ∧ (withWord (ready plain []) 0x5121).pc.toNat ≤ 0xFFE ∧
    decode ((withWord (ready plain []) 0x5121).fetch 0x200) = .unknown 0x5121 := by decide

/-- `RetPopsOrUnderflows`: a full stack, one entry, none. -/
theorem test_wit_ret : 0 < ({ ready plain [] with sp := 16 } : State).sp.val ∧
    0 < ({ ready plain [] with sp := 1 } : State).sp.val ∧ (ready plain []).sp.val = 0 := by decide

/-- `JumpSetsPc`: a jump to 0xFFF, and a jump to itself at 0xFFE. -/
theorem test_wit_jump : ((ready plain []).setPc 0xFFF).loaded = true ∧ ((ready plain []).setPc 0xFFF).status = .running ∧
    (withWord ((ready plain []).setPc 0xFFE) 0x1FFE).loaded = true ∧
    (withWord ((ready plain []).setPc 0xFFE) 0x1FFE).status = .running ∧
    (withWord ((ready plain []).setPc 0xFFE) 0x1FFE).pc.toNat = 0xFFE ∧
    decode ((withWord ((ready plain []).setPc 0xFFE) 0x1FFE).fetch 0xFFE) = .instr (.jp 0xFFE) := by decide

/-- `CallPushesOrOverflows`: the last free slot, and none. -/
theorem test_wit_call : ({ ready plain [] with sp := 15 } : State).sp.val < 16 ∧
    ({ ready plain [] with sp := 16 } : State).sp.val = 16 := by decide

/-- `SeventeenthCallOverflows`, `CallsReturnInOrder`: 16 targets from an empty stack. -/
theorem test_wit_calls : (ready plain []).status = .running ∧ (ready plain []).sp.val = 0 ∧
    (List.replicate 16 (0x200 : Addr)).length = 16 ∧
    (ready plain []).sp.val + (List.replicate 16 (0x200 : Addr)).length ≤ 16 := by decide

/-- `AddSetsCarry`, `SubSetsNotBorrow`, `SubnSetsNotBorrow`, `ShrShiftsRight`, `ShlShiftsLeft`: the last register that
is not VF, and the source under both settings of the quirk. -/
theorem test_wit_alu : (14 : Reg) ≠ regF ∧
    (0x81 : Byte) = (if (ready plain [(14, 0x81), (1, 0x7E)]).cfg.shiftQuirk = .vx then
      (ready plain [(14, 0x81), (1, 0x7E)]).getV 14 else (ready plain [(14, 0x81), (1, 0x7E)]).getV 1) ∧
    (0x7E : Byte) = (if (ready quirky [(14, 0x81), (1, 0x7E)]).cfg.shiftQuirk = .vx then
      (ready quirky [(14, 0x81), (1, 0x7E)]).getV 14 else (ready quirky [(14, 0x81), (1, 0x7E)]).getV 1) := by decide

/-- `DrawUnitXorsSprite`: the corner origin with the tallest sprite; a covered pixel, and one that is not. -/
theorem test_wit_draw_unit : 63 ≤ 63 ∧ 31 ≤ 31 ∧ (List.replicate 15 (0x80 : Byte)).length ≤ 15 ∧
    Covers .wrap 63 31 (List.replicate 15 0x80) 63 13 ∧ ¬ Covers .clip 63 31 (List.replicate 15 0x80) 63 13 := by
  refine ⟨by decide, by decide, by decide, ⟨14, 0, by decide, by decide, by decide, by decide, by decide⟩, ?_⟩
  rintro ⟨r, c, _, _, _, _, h⟩
  have e : (13 : Fin 32).val = 13 := rfl
  omega

/-- `DrwTogglesItsSprite`: a covered pixel of a one-row sprite, and one that is not. -/
theorem test_wit_drw :
    SpriteCovers (withSprite (ready plain [(1, 60)]) [0xFF]) 1 2 1 3 0 ∧
      ¬ SpriteCovers (withSprite (ready plain [(1, 60)]) [0xFF]) 1 2 1 3 1 := by
  refine ⟨⟨0, 7, by decide, by decide, by decide, by decide, by decide⟩, ?_⟩
  rintro ⟨r, c, h1, _, _, _, h⟩
  have e : ((withSprite (ready plain [(1, 60)]) [0xFF]).getV 2).toNat % 32 = 0 := by decide
  have e1 : (1 : Fin 32).val = 1 := rfl
  have e2 : (1 : Nibble).toNat = 1 := rfl
  rw [e] at h
  omega

/-- `DrwTwiceRestores`: coordinates that are not in VF. -/
theorem test_wit_drw_twice : (14 : Reg) ≠ regF ∧ (0 : Reg) ≠ regF := by decide

/-- `KeySkipsTestLowNibble`: the key of V[x] = 0xFF. -/
theorem test_wit_key_skip : (15 : Fin 16).val = ((ready plain [(3, 0xFF)]).getV 3).toNat % 16 := by decide

/-- `KeyWaitTakesLowestKey`: the highest key alone, and no key. -/
theorem test_wit_key_wait :
    ({ ready plain [] with key := (Vector.replicate 16 false).set 15 true } : State).key[15] = true ∧
    (∀ j : Fin 16, j.val < 15 →
      ({ ready plain [] with key := (Vector.replicate 16 false).set 15 true } : State).key[j.val] = false) ∧
    ∀ k : Fin 16, (ready plain []).key[k.val] = false := by decide

/-- The engine waiting at an `LD V3, K` at 0xFFE. -/
def waiting : State := ({ withWord ((ready plain []).setPc 0xFFE) 0xF30A with await := true } : State)

/-- `KeyWaitStepRepeats`. -/
theorem test_wit_key_wait_step : waiting.loaded = true ∧ waiting.status = .running ∧ waiting.pc.toNat ≤ 0xFFE ∧
    decode (waiting.fetch waiting.pc.toNat) = .instr (.ldVxK 3) ∧ ∀ k : Fin 16, waiting.key[k.val] = false := by decide

/-- `SetKeyWritesOneKey`: the last key, and the first index that has none. -/
theorem test_wit_set_key : 15 < 16 ∧ 16 ≤ 16 := by decide

/-- `AddIndexAddsRegister`: both settings of the quirk. -/
theorem test_wit_add_index : (ready quirky []).cfg.addIOverflowQuirk = .on ∧
    (ready plain []).cfg.addIOverflowQuirk = .off := by decide

/-- `BcdStoresDigits`, `BlockStoreWritesRegisters`, `BlockLoadReadsRegisters`: an offset and a register inside the
clauses. -/
theorem test_wit_block : 2 < 3 ∧ (15 : Fin 16).val ≤ (15 : Reg).val := by decide

/-- `BlockStoreThenLoad`: the stored state with I put back, the increment quirk being on. -/
theorem test_wit_store_load :
    ∃ t w : State, exec (.storeRegs 15) ((ready quirky [(15, 9)]).setI 0x300) = .next t ∧ w.mem = t.mem ∧
      w.i = ((ready quirky [(15, 9)]).setI 0x300).i :=
  ⟨_, State.setI _ 0x300, rfl, rfl, rfl⟩

/-- `FetchSeesStore`: the highest address, through an I above the address space. -/
theorem test_wit_fetch_sees_store : 1 ≤ (1 : Reg).val ∧ ((ready plain []).setI 0x1FFE).effAddr 0 ≤ 0xFFE := by decide

/-- `MemoryFormUnique`: a memory in the form, built by two writes in either order. -/
theorem test_wit_memory_form :
    Memory.wf (Memory.write (Memory.write [] 0x300 1) 0xFFF 2) = true ∧
      Memory.wf (Memory.write (Memory.write [] 0xFFF 2) 0x300 1) = true ∧
      ∀ a, a < memSize → Memory.read (Memory.write (Memory.write [] 0x300 1) 0xFFF 2) a =
        Memory.read (Memory.write (Memory.write [] 0xFFF 2) 0x300 1) a := by
  refine ⟨by decide, by decide, fun a _ => ?_⟩
  simp only [Memory.read_write]
  split
  · split
    · omega
    · rfl
  · rfl

/-- `EveryInstructionFrame`, `FlagIsZeroOrOne`, `OutputsAreNeverRead`, `PixelsFeedOnlyCollision`: a completing
instruction that writes the flag, and one that does not. -/
theorem test_wit_frame :
    (∃ t, exec (.addReg 0 1) (ready plain []) = .next t) ∧ Instr.writesFlag plain (.addReg 0 1) = true ∧
      (∃ t, exec (.addI 1) (ready plain []) = .next t) ∧ regF ∉ Instr.writtenRegs plain (.addI 1) :=
  ⟨⟨_, rfl⟩, rfl, ⟨_, rfl⟩, by decide⟩

/-- `FaultsExactly`, `FaultsArePrecise`: each cause is taken by a step of a loaded, running engine. -/
theorem test_wit_fault_pc : ((ready plain []).setPc 0xFFF).loaded = true ∧
    ((ready plain []).setPc 0xFFF).status = .running ∧
    ∃ t, step ((ready plain []).setPc 0xFFF) = .next t ∧ t.status = .halted .pcOutOfBounds :=
  ⟨rfl, rfl, _, step_of_not_canFetch rfl rfl rfl, rfl⟩

/-- The engine about to call with a full stack. -/
def fullStack : State := withWord { ready plain [] with sp := 16 } 0x2210

theorem test_wit_fault_overflow : fullStack.loaded = true ∧ fullStack.status = .running ∧
    ∃ t, step fullStack = .next t ∧ t.status = .halted .stackOverflow :=
  ⟨rfl, rfl, exists_of_decide_nextSuch (p := fun t => t.status = .halted .stackOverflow) (by decide)⟩

theorem test_wit_fault_underflow : (withWord (ready plain []) 0x00EE).loaded = true ∧
    (withWord (ready plain []) 0x00EE).status = .running ∧
    ∃ t, step (withWord (ready plain []) 0x00EE) = .next t ∧ t.status = .halted .stackUnderflow :=
  ⟨rfl, rfl, exists_of_decide_nextSuch (p := fun t => t.status = .halted .stackUnderflow) (by decide)⟩

/-- `HaltedUntilReset`: a halted engine under the three transactions that still answer. -/
theorem test_wit_halted : ((ready plain []).raise .stackOverflow).loaded = true ∧
    ((ready plain []).raise .stackOverflow).status = .halted .stackOverflow ∧
    (∀ c, Transaction.reset c ∉ [Transaction.step, .tick, .setKey 15 true]) ∧
    ∃ t, runAll [.step, .tick, .setKey 15 true] ((ready plain []).raise .stackOverflow) = .next t := by
  refine ⟨rfl, rfl, by simp, ?_⟩
  obtain ⟨t, e, _⟩ := exists_of_nextSuch (o := runAll [.step, .tick, .setKey 15 true] ((ready plain []).raise .stackOverflow))
    (check := fun t => t.key[15]) (by decide)
  exact ⟨t, e⟩

/-- `AwaitExactlyWhileWaiting`, `StepKeepsInvariant`, `TransactionsKeepInvariant`: the invariant holds of an engine that
is waiting for a key, and its step answers. -/
theorem test_wit_inv_waiting : Inv waiting ∧ waiting.status = .running ∧ waiting.await = true ∧
    ∃ t, step waiting = .next t ∧ t = waiting := by
  refine ⟨⟨by decide, by decide, by decide, fun _ => ⟨by decide, by decide, by decide, 3, by decide⟩, ?_, ?_, by decide,
    by decide⟩, by decide, by decide, exists_of_decide_nextSuch (by decide)⟩
  · intro c h
    exact absurd h (by simp [waiting, withWord, State.withFetchWord, State.readyToRun])
  · intro e h
    exact absurd h (by simp [waiting, withWord, State.withFetchWord, State.readyToRun, State.placeWord, ready,
      State.resetWith])

/-- `TransactionsKeepInvariant`: a sequence of all kinds but `load`, which needs a reset first. -/
theorem test_wit_run : ∃ t, runAll [.step, .tick, .setKey 7 true, .step, .reset plain, .load [0x12, 0x00]] waiting = .next t := by
  obtain ⟨t, e, _⟩ := exists_of_nextSuch
    (o := runAll [.step, .tick, .setKey 7 true, .step, .reset plain, .load [0x12, 0x00]] waiting)
    (check := fun t => t.loaded && t.memRead 0x200 == 0x12 && !t.key[7]) (by decide)
  exact ⟨t, e⟩

/-- `ResetValues`: the lowest and the highest legal load offset, and the neighbours that are refused. -/
theorem test_wit_reset : cfgLegal { plain with loadOffset := 0x200 } = true ∧
    cfgLegal { plain with loadOffset := 0xFFF } = true ∧
    refuses (transact (.reset { plain with loadOffset := 0x1FF }) waiting) .illegalConfig = true ∧
    refuses (transact (.reset { plain with loadOffset := 0x1000 }) waiting) .illegalConfig = true := by decide

/-- `LoadCopiesImage`: the largest image, one byte more, the empty image, a loaded engine. -/
theorem test_wit_load : (State.resetWith plain).loaded = false ∧ 1 ≤ (List.replicate 3584 (0 : Byte)).length ∧
    (List.replicate 3584 (0 : Byte)).length ≤ 4096 - (State.resetWith plain).cfg.loadOffset.toNat ∧
    4096 - (State.resetWith plain).cfg.loadOffset.toNat < (List.replicate 3585 (0 : Byte)).length ∧
    (waiting.loaded = true) := by
  rw [List.length_replicate, List.length_replicate]
  decide

/-- `LoadCopiesImage`: the invariant before a load, after some ticks and a key. -/
theorem test_wit_load_inv : Inv { State.resetWith plain with key := (Vector.replicate 16 false).set 0 true } := by
  refine ⟨rfl, by decide, by decide, ?_, ?_, ?_, fun _ => rfl, by decide⟩
  · intro h
    cases h
  · intro c h
    cases h
  · intro e h
    cases h

/-- `ResetMeetsInvariant`: a legal configuration at the upper edge. -/
theorem test_wit_cfg : cfgLegal { quirky with loadOffset := 0xFFF } = true := by decide

/-! ### The end of a run (10_state R44) -/

theorem test_self_jump : (withWord ((ready plain []).setPc 0x20A) 0x120A).atSelfJump = true := by decide

end Sys2Proof.Tests
end

section
/-! The step's cycle (10_state R39), one clause per law of `step`. -/

namespace Sys2Proof.Machine

/-- The fetch check in terms of PC (10_state R25, 60_exceptions R233). -/
theorem State.canFetch_eq_true_iff {s : State} : s.canFetch = true ↔ s.pc.toNat ≤ 0xFFE := by
  simp [State.canFetch]

theorem State.canFetch_eq_false_iff {s : State} : s.canFetch = false ↔ 0xFFE < s.pc.toNat := by
  simp [State.canFetch]

/-- Fetch, advance of PC and execution of an instruction (10_state R39). -/
theorem step_of_instr {s : State} {i : Instr} (hl : s.loaded = true) (hr : s.status = .running)
    (hpc : s.pc.toNat ≤ 0xFFE) (hd : decode (s.fetch s.pc.toNat) = .instr i) : step s = exec i s.advance := by
  rw [step_of_canFetch hl hr (State.canFetch_eq_true_iff.mpr hpc), runWord_of_instr hd]

/-- Fetch, advance of PC and report of an unknown word (10_state R39, 30_encoding R99). -/
theorem step_of_unknown {s : State} {w : Word} (hl : s.loaded = true) (hr : s.status = .running)
    (hpc : s.pc.toNat ≤ 0xFFE) (hd : decode (s.fetch s.pc.toNat) = .unknown w) :
    step s = .next (s.advance.report s.pc w) := by
  rw [step_of_canFetch hl hr (State.canFetch_eq_true_iff.mpr hpc), runWord_of_unknown hd]

/-- Settles O6, clause by clause from the laws of `step`: the load check, the halted engine, the fetch check, and the
two answers of the decoder. -/
theorem stepRunsDecodedInstruction : Obligations.StepRunsDecodedInstruction := fun _ =>
  ⟨step_of_not_loaded,
    fun _ => step_of_halted,
    fun hl hr hpc => step_of_not_canFetch hl hr (State.canFetch_eq_false_iff.mpr hpc),
    fun _ => step_of_instr,
    fun _ => step_of_unknown⟩

end Sys2Proof.Machine
end

section
/-! The fetch (20_memory R63): the value of a fetched word, and what the decoder makes of two given bytes. -/

namespace Sys2Proof.Machine

/-- Two bytes as a number: the first is the more significant half (20_memory R63). -/
theorem wordOfBytes_toNat (hi lo : Byte) : (wordOfBytes hi lo).toNat = hi.toNat * 256 + lo.toNat := by
  have h : hi.toNat <<< 8 + lo.toNat = hi.toNat <<< 8 ||| lo.toNat := Nat.shiftLeft_add_eq_or_of_lt lo.isLt _
  rw [wordOfBytes, BitVec.toNat_append, ← h, Nat.shiftLeft_eq]

/-- The byte at the lower address is the more significant half of the fetched word (20_memory R63). -/
theorem State.fetch_toNat (s : State) (a : Nat) :
    (s.fetch a).toNat = (Memory.read s.mem a).toNat * 256 + (Memory.read s.mem (a + 1)).toNat :=
  wordOfBytes_toNat _ _

/-- A fetched word is determined by the two bytes that lie there. -/
theorem State.fetch_of_read {s : State} {a : Nat} {hi lo : Byte} (hhi : Memory.read s.mem a = hi)
    (hlo : Memory.read s.mem (a + 1) = lo) : s.fetch a = wordOfBytes hi lo := by
  rw [State.fetch, hhi, hlo]

/-- The bytes 60 05 in this order are `LD V0, 5` (20_memory R63). -/
theorem decode_wordOfBytes_60_05 : decode (wordOfBytes 0x60 0x05) = .instr (.ldImm 0 5) := by decide

/-- Settles O5: the value of a fetched word, the fetch check of `step`, and the word of the two bytes 60 05. -/
theorem fetchIsBigEndian : Obligations.FetchIsBigEndian := by
  refine ⟨fun s a _ => s.fetch_toNat a, fun s hl hr hpc => ?_, fun s a _ hhi hlo => ?_⟩
  · exact step_of_not_canFetch hl hr (State.canFetch_eq_false_iff.mpr hpc)
  · rw [State.fetch_of_read hhi hlo, decode_wordOfBytes_60_05]

end Sys2Proof.Machine
end

section
/-! What the operations of control flow leave unchanged: everything but the pieces of state they name (40_flow). -/

namespace Sys2Proof.Machine

/-- A transition that writes no register and no memory has an empty register and byte frame. -/
theorem Frame.of_v_mem_eq {s t : State} {parts : List Part} (hv : t.v = s.v) (hmem : t.mem = s.mem)
    (hparts : ∀ p, p ∉ parts → p.same s t) : Frame [] noByte parts s t where
  regsSame r _ := by rw [State.getV, State.getV, hv]
  bytesSame _ _ := by rw [hmem]
  partsSame := hparts

theorem State.frame_setPc (s : State) (w : Word) : Frame [] noByte [.pc] s (s.setPc w) :=
  .of_v_mem_eq rfl rfl fun p hp => by
    cases p with
    | pc => exact absurd hp (by decide)
    | _ => rfl

theorem State.frame_raise (s : State) (c : FatalFault) : Frame [] noByte [.status] s (s.raise c) :=
  .of_v_mem_eq rfl rfl fun p hp => by
    cases p with
    | status => exact absurd hp (by decide)
    | _ => rfl

theorem State.frame_popPc (s : State) (h : 0 < s.sp.val) : Frame [] noByte [.pc, .sp] s (s.popPc h) :=
  .of_v_mem_eq rfl rfl fun p hp => by
    cases p with
    | pc | sp => exact absurd hp (by decide)
    | _ => rfl

theorem State.frame_push_setPc (s : State) (w a : Word) (h : s.sp.val < 16) :
    Frame [] noByte [.pc, .sp, .stack] s ((s.push w h).setPc a) :=
  .of_v_mem_eq rfl rfl fun p hp => by
    cases p with
    | pc | sp | stack => exact absurd hp (by decide)
    | _ => rfl

end Sys2Proof.Machine
end

section
/-! RET (40_flow R122). -/

namespace Sys2Proof.Machine

/-- With an entry in use RET pops (40_flow R122). -/
theorem exec_ret_of_pos {s : State} (h : 0 < s.sp.val) : exec .ret s = .next (s.popPc h) :=
  dif_neg (Nat.ne_of_gt h)

/-- With no entry in use RET halts (40_flow R122, 60_exceptions R235). -/
theorem exec_ret_of_empty {s : State} (h : s.sp.val = 0) : exec .ret s = .next (s.raise .stackUnderflow) :=
  dif_pos h

/-- RET takes the topmost entry in use, STACK[SP-1] (40_flow R122). -/
theorem State.popPc_pc_of_top {s : State} (h : 0 < s.sp.val) {j : Fin 16} (hj : j.val + 1 = s.sp.val) :
    (s.popPc h).pc = s.stack[j.val] := by
  have hidx : s.sp.val - 1 = j.val := by omega
  simp only [State.popPc_pc, hidx]

/-- Settles O10: the pop with its frame when an entry is in use, the fatal fault with its frame when none is. -/
theorem retPopsOrUnderflows : Obligations.RetPopsOrUnderflows := by
  refine ⟨by decide, fun s => ⟨fun hpos => ?_, fun hempty => ?_⟩⟩
  · exact ⟨_, exec_ret_of_pos hpos, Nat.sub_add_cancel hpos, fun _ => State.popPc_pc_of_top hpos, s.frame_popPc hpos⟩
  · exact ⟨_, exec_ret_of_empty hempty, rfl, s.frame_raise _⟩

end Sys2Proof.Machine
end

section
/-! JP (40_flow R123). -/

namespace Sys2Proof.Machine

theorem decode_wordNNN_jp (nnn : Addr) : decode (wordNNN 0x1 nnn) = .instr (.jp nnn) := by
  simp [decode]

theorem exec_jp (nnn : Addr) (s : State) : exec (.jp nnn) s = .next (s.setPc (zextAddr nnn)) := rfl

/-- A jump back to the address the step fetched from undoes the advance of PC, so the step changes nothing
(40_flow R123). -/
theorem State.advance_setPc_zextAddr_of_pc {s : State} {nnn : Addr} (h : s.pc.toNat = nnn.toNat) :
    s.advance.setPc (zextAddr nnn) = s := by
  have hpc : zextAddr nnn = s.pc := BitVec.eq_of_toNat_eq (by rw [zextAddr_toNat, h])
  rw [hpc]
  rfl

/-- A jump to the last byte of memory leaves a PC that lets no step fetch (40_flow R123, 60_exceptions R233). -/
theorem State.canFetch_setPc_0xFFF (s : State) : (s.setPc (zextAddr 0xFFF)).canFetch = false := by
  rw [State.canFetch_eq_false_iff, State.setPc_pc, zextAddr_toNat]
  decide

/-- Settles O11: the jump with its frame, the fetch check of the step after a jump to 0xFFF, and the step on a jump to
itself. -/
theorem jumpSetsPc : Obligations.JumpSetsPc := by
  refine fun nnn s => ⟨decode_wordNNN_jp nnn, ⟨_, exec_jp nnn s, zextAddr_toNat nnn, s.frame_setPc _, ?_⟩, ?_⟩
  · rintro rfl hl hr
    exact step_of_not_canFetch hl hr s.canFetch_setPc_0xFFF
  · intro hl hr hself hpc hd
    rw [step_of_instr hl hr hpc hd, exec_jp, State.advance_setPc_zextAddr_of_pc hself]

end Sys2Proof.Machine
end

section
/-! CALL, and the RET that undoes it (40_flow R124). -/

namespace Sys2Proof.Machine

theorem decode_wordNNN_call (nnn : Addr) : decode (wordNNN 0x2 nnn) = .instr (.call nnn) := by
  simp [decode]

/-- With a free entry CALL pushes the advanced PC and jumps (40_flow R124). -/
theorem exec_call_of_lt {s : State} (nnn : Addr) (h : s.sp.val < 16) :
    exec (.call nnn) s = .next ((s.push s.pc h).setPc (zextAddr nnn)) :=
  dif_neg (Nat.ne_of_lt h)

/-- With 16 entries in use CALL halts (40_flow R124, 60_exceptions R234). -/
theorem exec_call_of_full {s : State} (nnn : Addr) (h : s.sp.val = 16) :
    exec (.call nnn) s = .next (s.raise .stackOverflow) :=
  dif_pos h

/-- A stack slot read after a push: the slot SP holds the pushed word, the others are as before (40_flow R124). -/
theorem State.getElem_push_stack (s : State) (w : Word) (h : s.sp.val < 16) (j : Fin 16) :
    (s.push w h).stack[j.val] = if j.val = s.sp.val then w else s.stack[j.val] := by
  rw [State.push_stack, Vector.getElem_set]
  exact if_congr eq_comm rfl rfl

/-- A RET right after a push and a jump comes back to the pushed address (40_flow R124). -/
theorem exec_ret_push_setPc (s : State) (w a : Word) (h : s.sp.val < 16) :
    ∃ u, exec .ret ((s.push w h).setPc a) = .next u ∧ u.pc = w := by
  have hpos : 0 < ((s.push w h).setPc a).sp.val := Nat.succ_pos _
  refine ⟨_, exec_ret_of_pos hpos, ?_⟩
  rw [State.popPc_pc_of_top hpos (j := ⟨s.sp.val, h⟩) rfl, State.setPc_stack, State.getElem_push_stack, if_pos rfl]

/-- Settles O12: the push and jump with their frame and the way back, or the fatal fault with its frame. -/
theorem callPushesOrOverflows : Obligations.CallPushesOrOverflows := by
  refine fun nnn s => ⟨decode_wordNNN_call nnn, fun hlt => ?_, fun hfull => ?_⟩
  · exact ⟨_, exec_call_of_lt nnn hlt, zextAddr_toNat nnn, rfl, s.getElem_push_stack s.pc hlt,
      s.frame_push_setPc _ _ hlt, exec_ret_push_setPc s _ _ hlt⟩
  · exact ⟨_, exec_call_of_full nnn hfull, rfl, s.frame_raise _⟩

end Sys2Proof.Machine
end

section
/-! What an instruction of the register family leaves unchanged: everything but the registers it writes (41_alu R140),
and what it leaves in them. -/

namespace Sys2Proof.Machine

/-- A transition that writes general registers only keeps every byte of memory and every other piece of state. -/
theorem Frame.of_v_update {s : State} {v : Vector Byte 16} {regs : List Reg}
    (hv : ∀ r, r ∉ regs → ({ s with v := v } : State).getV r = s.getV r) : Frame regs noByte [] s { s with v := v } where
  regsSame := hv
  bytesSame _ _ := rfl
  partsSame p _ := by cases p <;> rfl

theorem State.frame_setV (s : State) (x : Reg) (b : Byte) : Frame [x] noByte [] s (s.setV x b) :=
  .of_v_update fun r hr => (s.getV_setV x r b).trans (if_neg (List.ne_of_not_mem_cons hr))

theorem State.frame_writeResult (s : State) (x : Reg) (b : Byte) (f : Bool) :
    Frame [x, regF] noByte [] s (s.writeResult x b f) :=
  .of_v_update fun r hr => by
    obtain ⟨hx, hF⟩ : r ≠ x ∧ r ≠ regF := by simpa using hr
    exact (s.getV_writeResult x r b f).trans (by rw [if_neg hF, if_neg hx])

theorem State.getV_setV_same (s : State) (x : Reg) (b : Byte) : (s.setV x b).getV x = b := by
  rw [State.getV_setV, if_pos rfl]

/-- The flag is written last, so VF holds it whatever x is (41_alu R141). -/
theorem State.getV_writeResult_regF (s : State) (x : Reg) (b : Byte) (f : Bool) :
    (s.writeResult x b f).getV regF = flagByte f := by
  rw [State.getV_writeResult, if_pos rfl]

theorem State.getV_writeResult_of_ne (s : State) {x : Reg} (b : Byte) (f : Bool) (hx : x ≠ regF) :
    (s.writeResult x b f).getV x = b := by
  rw [State.getV_writeResult, if_neg hx, if_pos rfl]

/-- The byte of a flag that records a comparison. -/
theorem flagByte_decide (p : Prop) [Decidable p] : flagByte (decide p) = if p then 1 else 0 := by
  by_cases h : p <;> simp [flagByte, h]

end Sys2Proof.Machine
end

section
/-! LD Vx, byte and ADD Vx, byte (41_alu R142, R143). -/

namespace Sys2Proof.Machine

theorem decode_wordXKK_ldImm (x : Reg) (kk : Byte) : decode (wordXKK 0x6 x kk) = .instr (.ldImm x kk) := by
  simp [decode]

theorem decode_wordXKK_addImm (x : Reg) (kk : Byte) : decode (wordXKK 0x7 x kk) = .instr (.addImm x kk) := by
  simp [decode]

theorem exec_ldImm (x : Reg) (kk : Byte) (s : State) : exec (.ldImm x kk) s = .next (s.setV x kk) := rfl

theorem exec_addImm (x : Reg) (kk : Byte) (s : State) : exec (.addImm x kk) s = .next (s.setV x (s.getV x + kk)) := rfl

/-- Settles O17: the decoded word, the write of the byte and the frame of a register write. -/
theorem loadImmediateSetsRegister : Obligations.LoadImmediateSetsRegister := fun x kk s =>
  ⟨decode_wordXKK_ldImm x kk, _, exec_ldImm x kk s, s.getV_setV_same x kk, s.frame_setV x kk⟩

/-- Settles O18: the decoded word, the sum as the byte addition of the model, and the frame of a register write. -/
theorem addImmediateWraps : Obligations.AddImmediateWraps := by
  refine fun x kk s => ⟨decode_wordXKK_addImm x kk, _, exec_addImm x kk s, ?_, s.frame_setV x _⟩
  rw [State.getV_setV_same, BitVec.toNat_add]

end Sys2Proof.Machine
end

section
/-! LD Vx, Vy and the logic operations (41_alu R144 to R147). -/

namespace Sys2Proof.Machine

/-- The words of family 8 are told apart by their bottom nibble (30_encoding R94). -/
theorem decode_wordXYN_8 (x y : Reg) (n : Nibble) :
    decode (wordXYN 0x8 x y n) = decodeFamily8 (wordXYN 0x8 x y n) := by
  simp [decode]

theorem decode_wordXYN_ldReg (x y : Reg) : decode (wordXYN 0x8 x y 0x0) = .instr (.ldReg x y) := by
  rw [decode_wordXYN_8]
  simp [decodeFamily8]

theorem decode_wordXYN_orReg (x y : Reg) : decode (wordXYN 0x8 x y 0x1) = .instr (.orReg x y) := by
  rw [decode_wordXYN_8]
  simp [decodeFamily8]

theorem decode_wordXYN_andReg (x y : Reg) : decode (wordXYN 0x8 x y 0x2) = .instr (.andReg x y) := by
  rw [decode_wordXYN_8]
  simp [decodeFamily8]

theorem decode_wordXYN_xorReg (x y : Reg) : decode (wordXYN 0x8 x y 0x3) = .instr (.xorReg x y) := by
  rw [decode_wordXYN_8]
  simp [decodeFamily8]

theorem exec_ldReg (x y : Reg) (s : State) : exec (.ldReg x y) s = .next (s.setV x (s.getV y)) := rfl

theorem exec_orReg (x y : Reg) (s : State) : exec (.orReg x y) s = .next (s.setV x (s.getV x ||| s.getV y)) := rfl

theorem exec_andReg (x y : Reg) (s : State) : exec (.andReg x y) s = .next (s.setV x (s.getV x &&& s.getV y)) := rfl

theorem exec_xorReg (x y : Reg) (s : State) : exec (.xorReg x y) s = .next (s.setV x (s.getV x ^^^ s.getV y)) := rfl

/-- Settles O19: the decoded word, the copy and the frame of a register write. -/
theorem loadRegisterCopies : Obligations.LoadRegisterCopies := fun x y s =>
  ⟨decode_wordXYN_ldReg x y, _, exec_ldReg x y s, s.getV_setV_same x _, s.frame_setV x _⟩

/-- Settles O20: for each operation the decoded word, the frame of a register write, and the bits of the written
byte. -/
theorem logicIsBitwise : Obligations.LogicIsBitwise := by
  refine fun x y s =>
    ⟨⟨decode_wordXYN_orReg x y, _, exec_orReg x y s, s.frame_setV x _, fun j => ?_⟩,
      ⟨decode_wordXYN_andReg x y, _, exec_andReg x y s, s.frame_setV x _, fun j => ?_⟩,
      ⟨decode_wordXYN_xorReg x y, _, exec_xorReg x y s, s.frame_setV x _, fun j => ?_⟩⟩
  · rw [State.getV_setV_same, BitVec.getLsbD_or]
  · rw [State.getV_setV_same, BitVec.getLsbD_and]
  · rw [State.getV_setV_same, BitVec.getLsbD_xor]

end Sys2Proof.Machine
end

section
/-! ADD Vx, Vy (41_alu R148). -/

namespace Sys2Proof.Machine

theorem decode_wordXYN_addReg (x y : Reg) : decode (wordXYN 0x8 x y 0x4) = .instr (.addReg x y) := by
  rw [decode_wordXYN_8]
  simp [decodeFamily8]

theorem exec_addReg (x y : Reg) (s : State) :
    exec (.addReg x y) s = .next (s.writeResult x (s.getV x + s.getV y) (carryOf (s.getV x) (s.getV y))) := rfl

/-- Settles O21: the decoded word, the sum unless the flag overwrites it, the carry of the old operands, and the frame
of a result with its flag. -/
theorem addSetsCarry : Obligations.AddSetsCarry := by
  refine fun x y s =>
    ⟨decode_wordXYN_addReg x y, _, exec_addReg x y s, fun hx => ?_, ?_, s.frame_writeResult x _ _⟩
  · rw [State.getV_writeResult_of_ne _ _ _ hx, BitVec.toNat_add]
  · rw [State.getV_writeResult_regF, carryOf, flagByte_decide]

end Sys2Proof.Machine
end

section
/-! The draw unit as one run over the pixels of the sprite, row by row, and what it reports (42_display R173). -/

namespace Sys2Proof.Machine

/-- The pixels of a sprite in the order of drawing, as (row, column). -/
def spritePixels (rows : List Byte) : List (Nat × Nat) := List.range rows.length ×ˢ List.range 8

/-- One pixel of the sprite XORed onto the grid. -/
def drawPixel (q : DrawWrapQuirk) (x0 y0 : Nat) (rows : List Byte) (acc : Display × Bool) (p : Nat × Nat) :
    Display × Bool :=
  drawBit q (x0 + p.2) (y0 + p.1) ((rows.getD p.1 0).getLsbD (7 - p.2)) acc

/-- The pixel of the sprite is a 1 bit that lands on the grid pixel (X, Y): one witness of `Covers`. -/
def PixelCovers (q : DrawWrapQuirk) (x0 y0 : Nat) (rows : List Byte) (p : Nat × Nat) (X : Fin 64) (Y : Fin 32) :
    Prop :=
  (rows.getD p.1 0).getLsbD (7 - p.2) = true ∧ Lands q x0 y0 p.2 p.1 X Y

theorem mem_spritePixels {rows : List Byte} {p : Nat × Nat} :
    p ∈ spritePixels rows ↔ p.1 < rows.length ∧ p.2 < 8 := by
  rw [spritePixels, List.mem_product, List.mem_range, List.mem_range]

theorem nodup_spritePixels (rows : List Byte) : (spritePixels rows).Nodup :=
  List.nodup_range.product List.nodup_range

theorem covers_iff_exists_pixelCovers {q : DrawWrapQuirk} {x0 y0 : Nat} {rows : List Byte} {X : Fin 64} {Y : Fin 32} :
    Covers q x0 y0 rows X Y ↔ ∃ p ∈ spritePixels rows, PixelCovers q x0 y0 rows p X Y := by
  simp only [Covers, PixelCovers, mem_spritePixels, Prod.exists, and_assoc]

/-- The rows of a sprite, numbered from its origin. -/
theorem drawRows_eq_foldl (q : DrawWrapQuirk) (x0 y0 : Nat) (rows : List Byte) (acc : Display × Bool) :
    drawRows q x0 y0 rows acc =
      (List.range rows.length).foldl (fun a r => drawRow q x0 (y0 + r) (rows.getD r 0) a) acc := by
  induction rows generalizing y0 acc with
  | nil => rfl
  | cons row rows ih =>
    rw [drawRows, ih, List.length_cons, List.range_succ_eq_map, List.foldl_cons, List.foldl_map]
    simp only [Nat.add_assoc, Nat.add_comm 1]
    rfl

theorem draw_eq_foldl (q : DrawWrapQuirk) (x0 y0 : Nat) (rows : List Byte) (fb : Display) :
    draw q x0 y0 rows fb = (spritePixels rows).foldl (drawPixel q x0 y0 rows) (fb, false) := by
  rw [draw, drawRows_eq_foldl, spritePixels]
  simp only [SProd.sprod, List.product, List.foldl_flatMap, List.foldl_map]
  rfl

theorem pixelTarget_eq_some_iff_lands {q : DrawWrapQuirk} {x0 y0 c r : Nat} {X : Fin 64} {Y : Fin 32} :
    pixelTarget q (x0 + c) (y0 + r) = some (X, Y) ↔ Lands q x0 y0 c r X Y := pixelTarget_eq_some

/-- A sprite is smaller than the grid, so no two of its pixels land on one grid pixel, with wrapping or without. -/
theorem Lands.pixel_unique {q : DrawWrapQuirk} {x0 y0 : Nat} {p p' : Nat × Nat} {X : Fin 64} {Y : Fin 32}
    (h : Lands q x0 y0 p.2 p.1 X Y) (h' : Lands q x0 y0 p'.2 p'.1 X Y)
    (hp : p.1 < 32 ∧ p.2 < 8) (hp' : p'.1 < 32 ∧ p'.2 < 8) : p = p' := by
  obtain ⟨hcol, hrow⟩ : p.2 = p'.2 ∧ p.1 = p'.1 := by
    cases q <;> simp only [Lands] at h h' <;> omega
  exact Prod.ext hrow hcol

theorem drawPixel_collision (q : DrawWrapQuirk) (x0 y0 : Nat) (rows : List Byte) (acc : Display × Bool)
    (p : Nat × Nat) : (drawPixel q x0 y0 rows acc p).2 = true ↔
      acc.2 = true ∨ ∃ X Y, PixelCovers q x0 y0 rows p X Y ∧ Display.get acc.1 X Y = true := by
  simp only [drawPixel, drawBit_collision, PixelCovers, pixelTarget_eq_some_iff_lands, ← exists_and_left, and_assoc]

/-- Drawing one pixel of the sprite leaves alone the grid pixels on which the others land. -/
theorem drawPixel_get_of_ne {q : DrawWrapQuirk} {x0 y0 : Nat} {rows : List Byte} {p p' : Nat × Nat} {X : Fin 64}
    {Y : Fin 32} (acc : Display × Bool) (hne : p ≠ p') (hp : p.1 < 32 ∧ p.2 < 8) (hp' : p'.1 < 32 ∧ p'.2 < 8)
    (h : PixelCovers q x0 y0 rows p' X Y) :
    Display.get (drawPixel q x0 y0 rows acc p).1 X Y = Display.get acc.1 X Y := by
  have hmiss : pixelTarget q (x0 + p.2) (y0 + p.1) ≠ some (X, Y) := fun ht =>
    hne ((pixelTarget_eq_some_iff_lands.mp ht).pixel_unique h.2 hp hp')
  rw [drawPixel, drawBit_get, decide_eq_false hmiss, Bool.and_false, Bool.xor_false]

/-- A run of distinct pixels collides exactly on a grid pixel that was set before the run: no pixel of it lands where
an earlier one has drawn. -/
theorem foldl_drawPixel_collision {q : DrawWrapQuirk} {x0 y0 : Nat} {rows : List Byte} {ps : List (Nat × Nat)}
    (acc : Display × Bool) (hnodup : ps.Nodup) (hsmall : ∀ p ∈ ps, p.1 < 32 ∧ p.2 < 8) :
    (ps.foldl (drawPixel q x0 y0 rows) acc).2 = true ↔
      acc.2 = true ∨ ∃ p ∈ ps, ∃ X Y, PixelCovers q x0 y0 rows p X Y ∧ Display.get acc.1 X Y = true := by
  induction ps generalizing acc with
  | nil => simp
  | cons p ps ih =>
    obtain ⟨hp, hps⟩ := List.forall_mem_cons.mp hsmall
    obtain ⟨hnotMem, hnodup'⟩ := List.nodup_cons.mp hnodup
    have hlater : ∀ p' ∈ ps, ∀ X Y, PixelCovers q x0 y0 rows p' X Y →
        Display.get (drawPixel q x0 y0 rows acc p).1 X Y = Display.get acc.1 X Y := fun p' hp' X Y hcov =>
      drawPixel_get_of_ne acc (fun e => hnotMem (e ▸ hp')) hp (hps p' hp') hcov
    rw [List.foldl_cons, ih _ hnodup' hps, drawPixel_collision, List.exists_mem_cons_iff, or_assoc]
    refine or_congr_right (or_congr_right ?_)
    exact exists_congr fun p' => and_congr_right fun hp' => exists_congr fun X => exists_congr fun Y =>
      and_congr_right fun hcov => by rw [hlater p' hp' X Y hcov]

/-- `draw` reports a collision exactly when a covered grid pixel was set before it (42_display R173). -/
theorem draw_collision_iff {q : DrawWrapQuirk} {x0 y0 : Nat} {rows : List Byte} {fb : Display}
    (hrows : rows.length ≤ 32) :
    (draw q x0 y0 rows fb).2 = true ↔ ∃ X Y, Covers q x0 y0 rows X Y ∧ Display.get fb X Y = true := by
  have hsmall : ∀ p ∈ spritePixels rows, p.1 < 32 ∧ p.2 < 8 := fun p hp => by
    obtain ⟨hr, hc⟩ := mem_spritePixels.mp hp
    exact ⟨hr.trans_le hrows, hc⟩
  rw [draw_eq_foldl, foldl_drawPixel_collision _ (nodup_spritePixels rows) hsmall]
  simp only [covers_iff_exists_pixelCovers, Bool.false_eq_true, false_or]
  constructor
  · rintro ⟨p, hp, X, Y, hcov, hset⟩
    exact ⟨X, Y, ⟨p, hp, hcov⟩, hset⟩
  · rintro ⟨X, Y, ⟨p, hp, hcov⟩, hset⟩
    exact ⟨p, hp, X, Y, hcov, hset⟩

/-- Nothing collides on a grid with no pixel set. -/
theorem draw_blank_collision {q : DrawWrapQuirk} {x0 y0 : Nat} {rows : List Byte} (hrows : rows.length ≤ 32) :
    (draw q x0 y0 rows Display.blank).2 = false := by
  simp [← Bool.not_eq_true, draw_collision_iff hrows]

end Sys2Proof.Machine
end

section
/-! CLS, and the DRW after it (42_display R171, R174). -/

namespace Sys2Proof.Machine

theorem exec_cls (s : State) : exec .cls s = .next (s.setFb Display.blank) := rfl

theorem exec_drw (x y : Reg) (n : Nibble) (s : State) :
    exec (.drw x y n) s = .next ((s.setFb (s.drawn x y n).1).setFlag (s.drawn x y n).2) := rfl

theorem State.frame_setFb (s : State) (fb : Display) : Frame [] noByte [.fb] s (s.setFb fb) :=
  .of_v_mem_eq rfl rfl fun p hp => by
    cases p with
    | fb => exact absurd hp (by decide)
    | _ => rfl

theorem State.getV_setFlag_regF (s : State) (f : Bool) : (s.setFlag f).getV regF = flagByte f := by
  rw [State.getV_setFlag, if_pos rfl]

theorem State.length_spriteRows_le (s : State) (n : Nibble) : (s.spriteRows n).length ≤ 32 := by
  have hn : n.toNat < 16 := n.isLt
  rw [State.spriteRows, List.length_map, List.length_range]
  omega

/-- A DRW on a cleared grid reports no collision (42_display R171). -/
theorem State.drawn_setFb_blank_collision (s : State) (x y : Reg) (n : Nibble) :
    ((s.setFb Display.blank).drawn x y n).2 = false :=
  draw_blank_collision (State.length_spriteRows_le _ n)

/-- Settles O27: the clear grid with its frame, and the DRW after it, none of whose pixels finds a set one. -/
theorem clsClearsDisplay : Obligations.ClsClearsDisplay := by
  refine ⟨by decide, fun s => ⟨_, exec_cls s, Display.get_blank, s.frame_setFb _, fun x y n => ?_⟩⟩
  refine ⟨_, exec_drw x y n _, ?_⟩
  rw [State.getV_setFlag_regF, State.drawn_setFb_blank_collision]
  rfl

end Sys2Proof.Machine
end

section
/-! LD I, addr (44_index_memory R211). -/

namespace Sys2Proof.Machine

theorem decode_wordNNN_ldI (nnn : Addr) : decode (wordNNN 0xA nnn) = .instr (.ldI nnn) := by
  simp [decode]

theorem exec_ldI (nnn : Addr) (s : State) : exec (.ldI nnn) s = .next (s.setI (zextAddr nnn)) := rfl

theorem State.frame_setI (s : State) (w : Word) : Frame [] noByte [.i] s (s.setI w) :=
  .of_v_mem_eq rfl rfl fun p hp => by
    cases p with
    | i => exact absurd hp (by decide)
    | _ => rfl

/-- Settles O37: the decoded word, the zero-extended address in I, and the frame of a write of I. -/
theorem loadIndexSetsI : Obligations.LoadIndexSetsI := fun nnn s =>
  ⟨decode_wordNNN_ldI nnn, _, exec_ldI nnn s, zextAddr_toNat nnn, s.frame_setI _⟩

end Sys2Proof.Machine
end

section
/-! Consecutive CALLs (60_exceptions R234). -/

namespace Sys2Proof.Machine

theorem execAll_nil (s : State) : execAll [] s = .next s := rfl

theorem execAll_cons_of_next {i : Instr} {s t : State} (is : List Instr) (h : exec i s = .next t) :
    execAll (i :: is) s = execAll is t := by
  rw [execAll, h]

/-- CALLs that fit the stack push one entry each and do not halt the engine (40_flow R124). -/
theorem execAll_calls_of_fit (ns : List Addr) {s : State} (hfit : s.sp.val + ns.length ≤ 16) :
    ∃ t, execAll (ns.map .call) s = .next t ∧ t.status = s.status ∧ t.sp.val = s.sp.val + ns.length := by
  induction ns generalizing s with
  | nil => exact ⟨s, execAll_nil s, rfl, rfl⟩
  | cons n ns ih =>
    rw [List.length_cons] at hfit
    have hlt : s.sp.val < 16 := by omega
    have hsp : ((s.push s.pc hlt).setPc (zextAddr n)).sp.val = s.sp.val + 1 := rfl
    obtain ⟨t, hrun, hstatus, hdepth⟩ := ih (s := (s.push s.pc hlt).setPc (zextAddr n)) (by omega)
    refine ⟨t, (execAll_cons_of_next _ (exec_call_of_lt n hlt)).trans hrun, hstatus, ?_⟩
    rw [hdepth, hsp, List.length_cons]
    omega

/-- Settles O13: 16 CALLs fill the empty stack without halting, and CALL on a full stack halts. -/
theorem seventeenthCallOverflows : Obligations.SeventeenthCallOverflows := by
  intro s ns hrunning hempty hlen
  obtain ⟨t, hrun, hstatus, hdepth⟩ := execAll_calls_of_fit ns (s := s) (by omega)
  have hfull : t.sp.val = 16 := by omega
  exact ⟨t, hrun, hstatus.trans hrunning, hfull, fun nnn => exec_call_of_full nnn hfull⟩

end Sys2Proof.Machine
end

section
/-! The decoder on the words the encoder builds (30_encoding R94, R96, R103). -/

namespace Sys2Proof.Machine

/-- The address field of a word of format NNN is read back, so it is determined by the word (30_encoding R91). -/
theorem wordNNN_ne_of_ne {nnn nnn' : Addr} (op : BitVec 4) (h : nnn ≠ nnn') : wordNNN op nnn ≠ wordNNN op nnn' :=
  fun e => h (by rw [← nnn_wordNNN op nnn, e, nnn_wordNNN])

theorem wellFormed_sys_iff {nnn : Addr} : (Instr.sys nnn).wellFormed = true ↔ nnn ≠ 0x0E0#12 ∧ nnn ≠ 0x0EE#12 := by
  simp [Instr.wellFormed]

/-- In family 0x0 every address but the two of CLS and RET is a SYS (30_encoding R103). -/
theorem decode_wordNNN_sys {nnn : Addr} (hcls : nnn ≠ 0x0E0#12) (hret : nnn ≠ 0x0EE#12) :
    decode (wordNNN 0x0#4 nnn) = .instr (.sys nnn) := by
  have hw : wordNNN 0x0#4 nnn ≠ 0x00E0#16 := wordNNN_ne_of_ne _ hcls
  have hw' : wordNNN 0x0#4 nnn ≠ 0x00EE#16 := wordNNN_ne_of_ne _ hret
  simp [decode, decodeFamily0, hw, hw']

/-- Settles O1: a family is told by the top nibble, and inside 0x8, 0xE and 0xF an instruction by the bottom nibble or
byte; only SYS needs well-formedness. -/
theorem decodeOfEncode : Obligations.DecodeOfEncode := by
  intro i hwf
  cases i with
  | sys nnn =>
    obtain ⟨hcls, hret⟩ := wellFormed_sys_iff.mp hwf
    exact decode_wordNNN_sys hcls hret
  | cls | ret => decide
  | jp | call | ldI | jpV0 | seImm | sneImm | ldImm | addImm | rnd | seReg | sneReg | drw => simp [encode, decode]
  | ldReg | orReg | andReg | xorReg | addReg | sub | shr | subn | shl => simp [encode, decode, decodeFamily8]
  | skp | sknp => simp [encode, decode, decodeFamilyE]
  | ldVxDT | ldVxK | ldDTVx | ldSTVx | addI | ldF | ldB | storeRegs | loadRegs =>
    simp [encode, decode, decodeFamilyF]

/-- Settles O4: each vector word by evaluation of the decoder. -/
theorem vectorWordsDecode : Obligations.VectorWordsDecode := by
  refine ⟨?_, ?_, ?_, ?_, ?_, ?_, ?_, ?_, ?_⟩ <;> decide

end Sys2Proof.Machine
end

section
/-! The encoder on the instructions the decoder yields, family by family (30_encoding R94, R103). -/

namespace Sys2Proof.Machine

/-! A word put together again from its fields, the top nibble and a sub-opcode being known. -/

theorem wordNNN_of_op {w : Word} {op : BitVec 4} (hop : Word.op w = op) : wordNNN op (Word.nnn w) = w := by
  rw [← hop, wordNNN_fields]

theorem wordXKK_of_op {w : Word} {op : BitVec 4} (hop : Word.op w = op) :
    wordXKK op (Word.x w) (Word.kk w) = w := by
  rw [← hop, wordXKK_fields]

theorem wordXKK_of_op_kk {w : Word} {op : BitVec 4} {kk : Byte} (hop : Word.op w = op) (hkk : Word.kk w = kk) :
    wordXKK op (Word.x w) kk = w := by
  rw [← hkk, wordXKK_of_op hop]

theorem wordXYN_of_op {w : Word} {op : BitVec 4} (hop : Word.op w = op) :
    wordXYN op (Word.x w) (Word.y w) (Word.n w) = w := by
  rw [← hop, wordXYN_fields]

theorem wordXYN_of_op_n {w : Word} {op : BitVec 4} {n : Nibble} (hop : Word.op w = op) (hn : Word.n w = n) :
    wordXYN op (Word.x w) (Word.y w) n = w := by
  rw [← hn, wordXYN_of_op hop]

/-- The families of the opcode map (30_encoding R94). -/
theorem nibble_cases : ∀ op : BitVec 4, op = 0x0#4 ∨ op = 0x1#4 ∨ op = 0x2#4 ∨ op = 0x3#4 ∨ op = 0x4#4 ∨ op = 0x5#4 ∨
    op = 0x6#4 ∨ op = 0x7#4 ∨ op = 0x8#4 ∨ op = 0x9#4 ∨ op = 0xA#4 ∨ op = 0xB#4 ∨ op = 0xC#4 ∨ op = 0xD#4 ∨
    op = 0xE#4 ∨ op = 0xF#4 := by
  decide

/-- The word is the encoding of the instruction, which is well formed. -/
def IsWordOf (w : Word) (i : Instr) : Prop := encode i = w ∧ i.wellFormed = true

/-- Family 0x0: a word that is neither CLS nor RET is a SYS with neither exception for address (30_encoding R103). -/
theorem isWordOf_of_decodeFamily0 {w : Word} {i : Instr} (hop : Word.op w = 0x0#4)
    (h : decodeFamily0 w = .instr i) : IsWordOf w i := by
  unfold decodeFamily0 at h
  split_ifs at h with hcls hret <;> cases h
  · exact ⟨hcls.symm, rfl⟩
  · exact ⟨hret.symm, rfl⟩
  · have hw : wordNNN 0x0#4 (Word.nnn w) = w := wordNNN_of_op hop
    refine ⟨hw, wellFormed_sys_iff.mpr ⟨fun e => hcls ?_, fun e => hret ?_⟩⟩
    · rw [← hw, e]; rfl
    · rw [← hw, e]; rfl

theorem isWordOf_of_decodeFamily8 {w : Word} {i : Instr} (hop : Word.op w = 0x8#4)
    (h : decodeFamily8 w = .instr i) : IsWordOf w i := by
  unfold decodeFamily8 at h
  split_ifs at h with hn hn hn hn hn hn hn hn hn <;> cases h <;> exact ⟨wordXYN_of_op_n hop hn, rfl⟩

theorem isWordOf_of_decodeFamilyE {w : Word} {i : Instr} (hop : Word.op w = 0xE#4)
    (h : decodeFamilyE w = .instr i) : IsWordOf w i := by
  unfold decodeFamilyE at h
  split_ifs at h with hkk hkk <;> cases h <;> exact ⟨wordXKK_of_op_kk hop hkk, rfl⟩

theorem isWordOf_of_decodeFamilyF {w : Word} {i : Instr} (hop : Word.op w = 0xF#4)
    (h : decodeFamilyF w = .instr i) : IsWordOf w i := by
  unfold decodeFamilyF at h
  split_ifs at h with hkk hkk hkk hkk hkk hkk hkk hkk hkk <;> cases h <;> exact ⟨wordXKK_of_op_kk hop hkk, rfl⟩

/-- The strict test of families 0x5 and 0x9, when it answers an instruction (30_encoding R94, D13). -/
theorem strictTest_eq_instr {w : Word} {i j : Instr} :
    (if Word.n w = 0x0#4 then Decoded.instr i else .unknown w) = .instr j ↔ Word.n w = 0x0#4 ∧ i = j := by
  split_ifs with hn <;> simp [hn]

theorem strictTest_eq_unknown {w u : Word} {i : Instr} :
    (if Word.n w = 0x0#4 then Decoded.instr i else .unknown w) = .unknown u ↔ u = w ∧ Word.n w ≠ 0x0#4 := by
  split_ifs with hn <;> simp [hn, eq_comm]

/-- Settles O2: by the top nibble; each family's word is put together again from the fields the decoder took. -/
theorem encodeOfDecode : Obligations.EncodeOfDecode := by
  intro w i h
  show IsWordOf w i
  rcases nibble_cases (Word.op w) with
    hop | hop | hop | hop | hop | hop | hop | hop | hop | hop | hop | hop | hop | hop | hop | hop <;>
  simp only [decode, hop, reduceIte, BitVec.reduceEq, Decoded.instr.injEq, strictTest_eq_instr] at h
  · exact isWordOf_of_decodeFamily0 hop h
  · subst h; exact ⟨wordNNN_of_op hop, rfl⟩
  · subst h; exact ⟨wordNNN_of_op hop, rfl⟩
  · subst h; exact ⟨wordXKK_of_op hop, rfl⟩
  · subst h; exact ⟨wordXKK_of_op hop, rfl⟩
  · obtain ⟨hn, rfl⟩ := h; exact ⟨wordXYN_of_op_n hop hn, rfl⟩
  · subst h; exact ⟨wordXKK_of_op hop, rfl⟩
  · subst h; exact ⟨wordXKK_of_op hop, rfl⟩
  · exact isWordOf_of_decodeFamily8 hop h
  · obtain ⟨hn, rfl⟩ := h; exact ⟨wordXYN_of_op_n hop hn, rfl⟩
  · subst h; exact ⟨wordNNN_of_op hop, rfl⟩
  · subst h; exact ⟨wordNNN_of_op hop, rfl⟩
  · subst h; exact ⟨wordXKK_of_op hop, rfl⟩
  · subst h; exact ⟨wordXYN_of_op hop, rfl⟩
  · exact isWordOf_of_decodeFamilyE hop h
  · exact isWordOf_of_decodeFamilyF hop h

end Sys2Proof.Machine
end

section
/-! The words that decode to no instruction, family by family (30_encoding R98). -/

namespace Sys2Proof.Machine

theorem decodeFamily0_ne_unknown (w u : Word) : decodeFamily0 w ≠ .unknown u := by
  unfold decodeFamily0
  split_ifs <;> exact nofun

/-- The sub-opcodes of family 0x8 that no instruction has (30_encoding R98). -/
theorem nibble_unknown8_iff : ∀ n : Nibble,
    ((0x8 ≤ n.toNat ∧ n.toNat ≤ 0xD) ∨ n = 0xF#4) ↔
      n ∉ ([0x0, 0x1, 0x2, 0x3, 0x4, 0x5, 0x6, 0x7, 0xE] : List Nibble) := by
  decide

theorem decodeFamily8_eq_unknown {w u : Word} : decodeFamily8 w = .unknown u ↔
    u = w ∧ ((0x8 ≤ (Word.n w).toNat ∧ (Word.n w).toNat ≤ 0xD) ∨ Word.n w = 0xF#4) := by
  rw [nibble_unknown8_iff]
  unfold decodeFamily8
  split_ifs <;> simp_all [eq_comm]

theorem decodeFamilyE_eq_unknown {w u : Word} : decodeFamilyE w = .unknown u ↔
    u = w ∧ Word.kk w ≠ 0x9E#8 ∧ Word.kk w ≠ 0xA1#8 := by
  unfold decodeFamilyE
  split_ifs <;> simp_all [eq_comm]

theorem decodeFamilyF_eq_unknown {w u : Word} : decodeFamilyF w = .unknown u ↔
    u = w ∧ Word.kk w ∉ ([0x07, 0x0A, 0x15, 0x18, 0x1E, 0x29, 0x33, 0x55, 0x65] : List Byte) := by
  unfold decodeFamilyF
  split_ifs <;> simp_all [eq_comm]

/-- Settles O3: by the top nibble; the families with a sub-dispatch each leave their own words over. -/
theorem unknownSpaceExact : Obligations.UnknownSpaceExact := by
  intro w u
  rcases nibble_cases (Word.op w) with
    hop | hop | hop | hop | hop | hop | hop | hop | hop | hop | hop | hop | hop | hop | hop | hop <;>
  simp [decode, hop, decodeFamily0_ne_unknown, decodeFamily8_eq_unknown, decodeFamilyE_eq_unknown,
    decodeFamilyF_eq_unknown, strictTest_eq_unknown]

end Sys2Proof.Machine
end

section
/-! Frames: how they compose, and the frame of each operation that has none yet. -/

namespace Sys2Proof.Machine

theorem Part.same_refl (p : Part) (s : State) : p.same s s := by
  cases p <;> rfl

theorem Part.same_trans {p : Part} {s t u : State} (h : p.same s t) (h' : p.same t u) : p.same s u := by
  cases p <;> exact Eq.trans h' h

theorem Frame.refl (regs : List Reg) (stored : Nat → Prop) (parts : List Part) (s : State) :
    Frame regs stored parts s s where
  regsSame _ _ := rfl
  bytesSame _ _ := rfl
  partsSame p _ := p.same_refl s

theorem Frame.trans {regs : List Reg} {stored : Nat → Prop} {parts : List Part} {s t u : State}
    (h : Frame regs stored parts s t) (h' : Frame regs stored parts t u) : Frame regs stored parts s u where
  regsSame r hr := (h'.regsSame r hr).trans (h.regsSame r hr)
  bytesSame a ha := (h'.bytesSame a ha).trans (h.bytesSame a ha)
  partsSame p hp := Part.same_trans (h.partsSame p hp) (h'.partsSame p hp)

theorem Frame.mono {regs regs' : List Reg} {stored stored' : Nat → Prop} {parts parts' : List Part} {s t : State}
    (h : Frame regs stored parts s t) (hregs : regs ⊆ regs') (hstored : ∀ a, stored a → stored' a)
    (hparts : parts ⊆ parts') : Frame regs' stored' parts' s t where
  regsSame r hr := h.regsSame r fun hmem => hr (hregs hmem)
  bytesSame a ha := h.bytesSame a fun hmem => ha (hstored a hmem)
  partsSame p hp := h.partsSame p fun hmem => hp (hparts hmem)

/-- A frame that names less, where no byte is stored. -/
theorem Frame.mono_noByte {regs regs' : List Reg} {stored' : Nat → Prop} {parts parts' : List Part} {s t : State}
    (h : Frame regs noByte parts s t) (hregs : regs ⊆ regs') (hparts : parts ⊆ parts') :
    Frame regs' stored' parts' s t :=
  h.mono hregs (fun _ => False.elim) hparts

variable (s : State)

theorem State.frame_advance : Frame [] noByte [.pc] s s.advance := s.frame_setPc _

theorem State.frame_skipIf (c : Bool) : Frame [] noByte [.pc] s (s.skipIf c) := s.frame_setPc _

theorem State.frame_report (a w : Word) : Frame [] noByte [.diag] s (s.report a w) :=
  .of_v_mem_eq rfl rfl fun p hp => by
    cases p with
    | diag => exact absurd hp (by decide)
    | _ => rfl

theorem State.frame_setAwait (b : Bool) : Frame [] noByte [.await] s (s.setAwait b) :=
  .of_v_mem_eq rfl rfl fun p hp => by
    cases p with
    | await => exact absurd hp (by decide)
    | _ => rfl

theorem State.frame_setDt (b : Byte) : Frame [] noByte [.dt] s (s.setDt b) :=
  .of_v_mem_eq rfl rfl fun p hp => by
    cases p with
    | dt => exact absurd hp (by decide)
    | _ => rfl

theorem State.frame_setSt (b : Byte) : Frame [] noByte [.st] s (s.setSt b) :=
  .of_v_mem_eq rfl rfl fun p hp => by
    cases p with
    | st => exact absurd hp (by decide)
    | _ => rfl

theorem State.frame_countDraw : Frame [] noByte [.draws] s s.countDraw :=
  .of_v_mem_eq rfl rfl fun p hp => by
    cases p with
    | draws => exact absurd hp (by decide)
    | _ => rfl

theorem State.frame_incrementI (x : Reg) : Frame [] noByte [.i] s (s.incrementI x) := s.frame_setI _

theorem State.frame_setFlag (f : Bool) : Frame [regF] noByte [] s (s.setFlag f) := s.frame_setV regF _

/-- A data write changes the one byte at its reduced address (20_memory R64). -/
theorem State.frame_memWrite (a : Nat) (b : Byte) : Frame [] (· = a % memSize) [] s (s.memWrite a b) where
  regsSame r _ := s.memWrite_getV a b r
  bytesSame c hc := by rw [State.memWrite_mem, Memory.read_write, if_neg hc]
  partsSame p _ := by cases p <;> rfl

/-- A data write through I at an offset below `count` (44_index_memory R210). -/
theorem State.frame_memWrite_of_lt {t : State} {count k : Nat} (b : Byte) (hk : k < count) :
    Frame [] (storedThroughI s count) [] t (t.memWrite (s.i.toNat + k) b) :=
  (t.frame_memWrite _ b).mono (List.Subset.refl _) (fun _ ha => ⟨k, hk, ha⟩) (List.Subset.refl _)

theorem storedThroughI_mono {count count' : Nat} (h : count ≤ count') (a : Nat) (ha : storedThroughI s count a) :
    storedThroughI s count' a := by
  obtain ⟨k, hk, rfl⟩ := ha
  exact ⟨k, hk.trans_le h, rfl⟩

theorem State.frame_storeBlock (count : Nat) : Frame [] (storedThroughI s count) [] s (s.storeBlock count) := by
  induction count with
  | zero => exact .refl _ _ _ s
  | succ c ih =>
    rw [State.storeBlock_succ]
    exact (ih.mono (List.Subset.refl _) (storedThroughI_mono s c.le_succ) (List.Subset.refl _)).trans
      (s.frame_memWrite_of_lt _ c.lt_succ_self)

/-- What a block load leaves in the registers (44_index_memory R216). -/
theorem State.getV_loadBlock {count : Nat} (hcount : count ≤ 16) (r : Reg) :
    (s.loadBlock count).getV r = if r.val < count then s.memRead (s.i.toNat + r.val) else s.getV r := by
  induction count with
  | zero => rfl
  | succ c ih =>
    have hreg : r = Fin.ofNat 16 c ↔ r.val = c := by
      rw [Fin.ext_iff, Fin.val_ofNat, Nat.mod_eq_of_lt (by omega)]
    simp only [State.loadBlock_succ, State.getV_setV, ih (by omega), hreg]
    rcases Nat.lt_trichotomy r.val c with h | h | h
    · rw [if_neg h.ne, if_pos h, if_pos (by omega)]
    · rw [if_pos h, if_pos (by omega), h]
    · rw [if_neg h.ne', if_neg (by omega), if_neg (by omega)]

theorem State.frame_loadBlock {count : Nat} (hcount : count ≤ 16) :
    Frame ((List.finRange 16).filter (·.val < count)) noByte [] s (s.loadBlock count) := by
  rw [State.loadBlock_eq]
  refine .of_v_update fun r hr => ?_
  rw [← State.loadBlock_eq, s.getV_loadBlock hcount, if_neg]
  simpa using hr

theorem State.frame_setFb_setFlag (fb : Display) (f : Bool) : Frame [regF] noByte [.fb] s ((s.setFb fb).setFlag f) :=
  ((s.frame_setFb fb).mono_noByte (by simp) (by simp)).trans
    ((State.frame_setFlag _ f).mono_noByte (by simp) (by simp))

theorem State.frame_setV_countDraw (x : Reg) (b : Byte) : Frame [x] noByte [.draws] s (s.setV x b).countDraw :=
  ((s.frame_setV x b).mono_noByte (by simp) (by simp)).trans
    ((State.frame_countDraw _).mono_noByte (by simp) (by simp))

theorem State.frame_setV_setAwait (x : Reg) (b : Byte) (w : Bool) :
    Frame [x] noByte [.await] s ((s.setV x b).setAwait w) :=
  ((s.frame_setV x b).mono_noByte (by simp) (by simp)).trans
    ((State.frame_setAwait _ w).mono_noByte (by simp) (by simp))

theorem State.frame_setPc_setAwait (w : Word) (b : Bool) :
    Frame [] noByte [.pc, .await] s ((s.setPc w).setAwait b) :=
  ((s.frame_setPc w).mono_noByte (by simp) (by simp)).trans
    ((State.frame_setAwait _ b).mono_noByte (by simp) (by simp))

/-- The flag of ADD I is written when the quirk is on (44_index_memory R212). -/
theorem State.frame_addIFlag (f : Bool) :
    Frame (if s.cfg.addIOverflowQuirk = .on then [regF] else []) noByte [] s (s.addIFlag f) :=
  .of_v_update fun r hr => by
    refine (s.getV_addIFlag f r).trans (if_neg ?_)
    rintro ⟨rfl, hon⟩
    simp [hon] at hr

end Sys2Proof.Machine
end

section
/-! The meaning of each instruction as one operation on the state, where it has not been said yet. -/

namespace Sys2Proof.Machine

variable (x y : Reg) (kk : Byte) (nnn : Addr) (s : State)

theorem exec_sys : exec (.sys nnn) s = .next s := rfl

theorem exec_seImm : exec (.seImm x kk) s = .next (s.skipIf (s.getV x == kk)) := rfl

theorem exec_sneImm : exec (.sneImm x kk) s = .next (s.skipIf (s.getV x != kk)) := rfl

theorem exec_seReg : exec (.seReg x y) s = .next (s.skipIf (s.getV x == s.getV y)) := rfl

theorem exec_sneReg : exec (.sneReg x y) s = .next (s.skipIf (s.getV x != s.getV y)) := rfl

theorem exec_jpV0 : exec (.jpV0 nnn) s = .next (s.setPc (zextAddr nnn + zextByte (s.getV 0))) := rfl

theorem exec_sub : exec (.sub x y) s =
    .next (s.writeResult x (s.getV x - s.getV y) (notBorrowOf (s.getV x) (s.getV y))) := rfl

theorem exec_subn : exec (.subn x y) s =
    .next (s.writeResult x (s.getV y - s.getV x) (notBorrowOf (s.getV y) (s.getV x))) := rfl

theorem exec_shr : exec (.shr x y) s =
    .next (s.writeResult x (s.shiftSource x y >>> 1) (lsbOf (s.shiftSource x y))) := rfl

theorem exec_shl : exec (.shl x y) s =
    .next (s.writeResult x (s.shiftSource x y <<< 1) (msbOf (s.shiftSource x y))) := rfl

theorem exec_rnd : exec (.rnd x kk) s = .next (s.setV x (s.randomByte &&& kk)).countDraw := rfl

theorem exec_skp : exec (.skp x) s = .next (s.skipIf (s.keyAt x)) := rfl

theorem exec_sknp : exec (.sknp x) s = .next (s.skipIf (!s.keyAt x)) := rfl

theorem exec_ldVxDT : exec (.ldVxDT x) s = .next (s.setV x s.dt) := rfl

/-- With a key down the key wait takes the lowest one (43_keypad_timers R193). -/
theorem exec_ldVxK_of_some {s : State} {k : Fin 16} (h : s.lowestKey = some k) :
    exec (.ldVxK x) s = .next ((s.setV x (BitVec.ofNat 8 k.val)).setAwait false) := by
  rw [exec, execLdVxK, h]

/-- With no key down the key wait puts PC back (43_keypad_timers R193). -/
theorem exec_ldVxK_of_none {s : State} (h : s.lowestKey = none) :
    exec (.ldVxK x) s = .next ((s.setPc (s.pc - 2)).setAwait true) := by
  rw [exec, execLdVxK, h]

theorem exec_ldDTVx : exec (.ldDTVx x) s = .next (s.setDt (s.getV x)) := rfl

theorem exec_ldSTVx : exec (.ldSTVx x) s = .next (s.setSt (s.getV x)) := rfl

theorem exec_addI : exec (.addI x) s =
    .next ((s.setI (s.i + zextByte (s.getV x))).addIFlag (indexOverflowOf s.i (s.getV x))) := rfl

theorem exec_ldF : exec (.ldF x) s = .next (s.setI (BitVec.ofNat 16 (glyphAddr (lowNibble (s.getV x))))) := rfl

theorem exec_ldB : exec (.ldB x) s =
    .next (((s.memWrite (s.i.toNat + 0) (bcdHundreds (s.getV x))).memWrite (s.i.toNat + 1)
      (bcdTens (s.getV x))).memWrite (s.i.toNat + 2) (bcdOnes (s.getV x))) := rfl

theorem exec_storeRegs : exec (.storeRegs x) s = .next ((s.storeBlock (x.val + 1)).incrementI x) := rfl

theorem exec_loadRegs : exec (.loadRegs x) s = .next ((s.loadBlock (x.val + 1)).incrementI x) := rfl

/-! What the three instructions that branch on the state can do, said once. -/

theorem exec_ret_cases {s t : State} (h : exec .ret s = .next t) :
    (s.sp.val = 0 ∧ t = s.raise .stackUnderflow) ∨ ∃ hsp : 0 < s.sp.val, t = s.popPc hsp := by
  rcases Nat.eq_zero_or_pos s.sp.val with hsp | hsp
  · cases (exec_ret_of_empty hsp).symm.trans h
    exact .inl ⟨hsp, rfl⟩
  · cases (exec_ret_of_pos hsp).symm.trans h
    exact .inr ⟨hsp, rfl⟩

theorem exec_call_cases {nnn : Addr} {s t : State} (h : exec (.call nnn) s = .next t) :
    (s.sp.val = 16 ∧ t = s.raise .stackOverflow) ∨
      ∃ hsp : s.sp.val < 16, t = (s.push s.pc hsp).setPc (zextAddr nnn) := by
  rcases (Nat.lt_succ_iff.mp s.sp.isLt).eq_or_lt with hsp | hsp
  · cases (exec_call_of_full nnn hsp).symm.trans h
    exact .inl ⟨hsp, rfl⟩
  · cases (exec_call_of_lt nnn hsp).symm.trans h
    exact .inr ⟨hsp, rfl⟩

theorem exec_ldVxK_cases {x : Reg} {s t : State} (h : exec (.ldVxK x) s = .next t) :
    (s.lowestKey = none ∧ t = (s.setPc (s.pc - 2)).setAwait true) ∨
      ∃ k, s.lowestKey = some k ∧ t = (s.setV x (BitVec.ofNat 8 k.val)).setAwait false := by
  cases hk : s.lowestKey with
  | none =>
    cases (exec_ldVxK_of_none x hk).symm.trans h
    exact .inl ⟨rfl, rfl⟩
  | some k =>
    cases (exec_ldVxK_of_some x hk).symm.trans h
    exact .inr ⟨k, rfl, rfl⟩

end Sys2Proof.Machine
end

section
/-! What every instruction leaves unchanged (10_state R20, R22, R26, 20_memory R67). -/

namespace Sys2Proof.Machine

variable (x : Reg) (s : State)

theorem State.frame_setI_addIFlag (w : Word) (f : Bool) :
    Frame (if s.cfg.addIOverflowQuirk = .on then [regF] else []) noByte [.i] s ((s.setI w).addIFlag f) :=
  ((s.frame_setI w).mono_noByte (by simp) (by simp)).trans
    ((State.frame_addIFlag _ f).mono_noByte (List.Subset.refl _) (by simp))

/-- The three stores of LD B are at the first three addresses through I (44_index_memory R214). -/
theorem State.frame_bcd (b0 b1 b2 : Byte) : Frame [] (storedThroughI s 3) [] s
    (((s.memWrite (s.i.toNat + 0) b0).memWrite (s.i.toNat + 1) b1).memWrite (s.i.toNat + 2) b2) :=
  ((s.frame_memWrite_of_lt b0 (by decide)).trans (s.frame_memWrite_of_lt b1 (by decide))).trans
    (s.frame_memWrite_of_lt b2 (by decide))

theorem State.frame_storeBlock_incrementI (count : Nat) :
    Frame [] (storedThroughI s count) [.i] s ((s.storeBlock count).incrementI x) :=
  ((s.frame_storeBlock count).mono (by simp) (fun _ => id) (by simp)).trans
    ((State.frame_incrementI _ x).mono_noByte (by simp) (by simp))

theorem State.frame_loadBlock_incrementI :
    Frame (Instr.writtenRegs s.cfg (.loadRegs x)) noByte [.i] s ((s.loadBlock (x.val + 1)).incrementI x) := by
  have hload : Frame (Instr.writtenRegs s.cfg (.loadRegs x)) noByte [.i] s (s.loadBlock (x.val + 1)) :=
    (s.frame_loadBlock (by omega)).mono_noByte (by simp [Instr.writtenRegs]) (by simp)
  exact hload.trans ((State.frame_incrementI _ x).mono_noByte (by simp) (by simp))

/-- Settles O46: each instruction is one operation or a few, whose frames the table's row covers. -/
theorem everyInstructionFrame : Obligations.EveryInstructionFrame := by
  intro i s t h
  cases i with
  | sys => cases h; exact .refl _ _ _ s
  | ret =>
    rcases exec_ret_cases h with ⟨-, rfl⟩ | ⟨hsp, rfl⟩
    · exact (s.frame_raise _).mono_noByte (by simp) (by simp [Instr.writtenParts])
    · exact (s.frame_popPc hsp).mono_noByte (by simp) (by simp [Instr.writtenParts])
  | call nnn =>
    rcases exec_call_cases h with ⟨-, rfl⟩ | ⟨hsp, rfl⟩
    · exact (s.frame_raise _).mono_noByte (by simp) (by simp [Instr.writtenParts])
    · exact (s.frame_push_setPc _ _ hsp).mono_noByte (by simp) (by simp [Instr.writtenParts])
  | jp | jpV0 => cases h; exact s.frame_setPc _
  | seImm | sneImm | seReg | sneReg | skp | sknp => cases h; exact s.frame_skipIf _
  | ldImm | addImm | ldReg | orReg | andReg | xorReg | ldVxDT => cases h; exact s.frame_setV _ _
  | addReg | sub | shr | subn | shl => cases h; exact s.frame_writeResult _ _ _
  | cls => cases h; exact s.frame_setFb _
  | drw => cases h; exact s.frame_setFb_setFlag _ _
  | rnd => cases h; exact s.frame_setV_countDraw _ _
  | ldVxK x =>
    rcases exec_ldVxK_cases h with ⟨-, rfl⟩ | ⟨k, -, rfl⟩
    · exact (s.frame_setPc_setAwait _ _).mono_noByte (by simp) (by simp [Instr.writtenParts])
    · exact (s.frame_setV_setAwait _ _ _).mono_noByte (by simp [Instr.writtenRegs]) (by simp [Instr.writtenParts])
  | ldDTVx => cases h; exact s.frame_setDt _
  | ldSTVx => cases h; exact s.frame_setSt _
  | ldI | ldF => cases h; exact s.frame_setI _
  | addI => cases h; exact s.frame_setI_addIFlag _ _
  | ldB => cases h; exact s.frame_bcd _ _ _
  | storeRegs => cases h; exact s.frame_storeBlock_incrementI _ _
  | loadRegs => cases h; exact s.frame_loadBlock_incrementI _

/-- Settles O47: an instruction that sets the flag writes a flag byte last; every other leaves VF to its frame. -/
theorem flagIsZeroOrOne : Obligations.FlagIsZeroOrOne := by
  refine fun i s t h => ⟨fun hflag => ?_, (everyInstructionFrame i s t h).regsSame regF⟩
  cases i with
  | addReg | sub | shr | subn | shl =>
    cases h
    rw [State.getV_writeResult_regF]
    exact flagByte_eq_zero_or_one _
  | drw =>
    cases h
    rw [State.getV_setFlag_regF]
    exact flagByte_eq_zero_or_one _
  | addI x =>
    have hon : s.cfg.addIOverflowQuirk = .on := by simpa [Instr.writesFlag] using hflag
    cases h
    rw [State.getV_addIFlag, if_pos ⟨rfl, hon⟩]
    exact flagByte_eq_zero_or_one _
  | _ => exact absurd hflag Bool.false_ne_true

end Sys2Proof.Machine
end

section
/-! What the execute phase does to the pieces of state that the invariant speaks of. -/

namespace Sys2Proof.Machine

section
variable {i : Instr} {s t : State} (h : exec i s = .next t)
include h

/-! No instruction writes LOADED, the configuration or the diagnostic channel (10_state R20). -/

theorem exec_loaded : t.loaded = s.loaded :=
  (everyInstructionFrame i s t h).partsSame .loaded (by cases i <;> simp [Instr.writtenParts])

theorem exec_cfg : t.cfg = s.cfg :=
  (everyInstructionFrame i s t h).partsSame .cfg (by cases i <;> simp [Instr.writtenParts])

theorem exec_diag : t.diag = s.diag :=
  (everyInstructionFrame i s t h).partsSame .diag (by cases i <;> simp [Instr.writtenParts])

/-- Only RET on an empty stack and CALL on a full one write STATUS (60_exceptions R231). -/
theorem exec_status_cases : t.status = s.status ∨
    (i = .ret ∧ s.sp.val = 0 ∧ t = s.raise .stackUnderflow) ∨
    ∃ nnn, i = .call nnn ∧ s.sp.val = 16 ∧ t = s.raise .stackOverflow := by
  cases i with
  | ret =>
    rcases exec_ret_cases h with ⟨hsp, rfl⟩ | ⟨hsp, rfl⟩
    · exact .inr (.inl ⟨rfl, hsp, rfl⟩)
    · exact .inl rfl
  | call nnn =>
    rcases exec_call_cases h with ⟨hsp, rfl⟩ | ⟨hsp, rfl⟩
    · exact .inr (.inr ⟨nnn, rfl, hsp, rfl⟩)
    · exact .inl rfl
  | _ => exact .inl ((everyInstructionFrame _ s t h).partsSame .status (by simp [Instr.writtenParts]))

/-- AWAIT after an instruction is 1 when it is a key wait that found no key, and as before for any other instruction
(43_keypad_timers R193, 10_state R32). -/
theorem exec_await : t.await = true ↔
    (∃ x, i = .ldVxK x) ∧ s.lowestKey = none ∨ (∀ x, i ≠ .ldVxK x) ∧ s.await = true := by
  cases i with
  | ldVxK x => rcases exec_ldVxK_cases h with ⟨hk, rfl⟩ | ⟨k, hk, rfl⟩ <;> simp [hk]
  | _ =>
    have hsame : t.await = s.await :=
      (everyInstructionFrame _ s t h).partsSame .await (by simp [Instr.writtenParts])
    simp [hsame]

/-- Only LD B and LD [I], Vx write memory, each byte at a reduced address (20_memory R64, R67). -/
theorem exec_memWf (hwf : Memory.wf s.mem = true) : Memory.wf t.mem = true := by
  cases i with
  | ret => rcases exec_ret_cases h with ⟨-, rfl⟩ | ⟨hsp, rfl⟩ <;> exact hwf
  | call => rcases exec_call_cases h with ⟨-, rfl⟩ | ⟨hsp, rfl⟩ <;> exact hwf
  | ldVxK => rcases exec_ldVxK_cases h with ⟨-, rfl⟩ | ⟨k, -, rfl⟩ <;> exact hwf
  | ldB => cases h; exact State.wf_memWrite (State.wf_memWrite (State.wf_memWrite hwf))
  | storeRegs => cases h; exact State.wf_storeBlock hwf _
  | loadRegs =>
    cases h
    rw [State.incrementI_mem, State.loadBlock_eq]
    exact hwf
  | _ => cases h; exact hwf

/-- A CALL pushes the PC it finds; the entries in use are otherwise old ones (40_flow R122, R124). -/
theorem exec_stackBound {bound : Nat} (hpc : s.pc.toNat ≤ bound)
    (hstack : ∀ j : Fin 16, j.val < s.sp.val → (s.stack[j.val]).toNat ≤ bound) :
    ∀ j : Fin 16, j.val < t.sp.val → (t.stack[j.val]).toNat ≤ bound := by
  cases i with
  | ret =>
    rcases exec_ret_cases h with ⟨-, rfl⟩ | ⟨hsp, rfl⟩
    · exact hstack
    · exact fun j hj => hstack j (Nat.lt_of_lt_of_le hj (Nat.sub_le _ _))
  | call nnn =>
    rcases exec_call_cases h with ⟨-, rfl⟩ | ⟨hsp, rfl⟩
    · exact hstack
    · intro j hj
      rw [State.setPc_stack, State.getElem_push_stack]
      split
      · exact hpc
      · exact hstack j (Nat.lt_of_le_of_ne (Nat.lt_succ_iff.mp hj) ‹_›)
  | _ =>
    have hf := everyInstructionFrame _ s t h
    have hsp : t.sp = s.sp := hf.partsSame .sp (by simp [Instr.writtenParts])
    have hst : t.stack = s.stack := hf.partsSame .stack (by simp [Instr.writtenParts])
    rw [hsp, hst]
    exact hstack

end

/-- A taken skip is the second advance of PC, so it stays at most 2 above (40_flow R120). -/
theorem State.skipIf_pc_le {s : State} (c : Bool) (hpc : s.pc.toNat ≤ 0x1000) : (s.skipIf c).pc.toNat ≤ 0x1002 := by
  rw [State.skipIf_pc]
  split
  · rw [BitVec.toNat_add]
    exact (Nat.mod_le _ _).trans (Nat.add_le_add_right hpc 2)
  · omega

theorem State.advance_pc_toNat {s : State} (hpc : s.pc.toNat ≤ 0xFFE) : s.advance.pc.toNat = s.pc.toNat + 2 := by
  rw [State.advance_pc, BitVec.toNat_add]
  exact Nat.mod_eq_of_lt (Nat.lt_of_le_of_lt (Nat.add_le_add_right hpc 2) (by decide))

/-- A step fetches at 0xFFE at most, so the advanced PC is at most 0x1000 (10_state R25). -/
theorem State.advance_pc_le {s : State} (hpc : s.pc.toNat ≤ 0xFFE) : s.advance.pc.toNat ≤ 0x1000 :=
  (State.advance_pc_toNat hpc).trans_le (Nat.add_le_add_right hpc 2)

/-- The sum of JP V0, which is not reduced (40_flow R129). -/
theorem jumpSum_toNat (nnn : Addr) (b : Byte) : (zextAddr nnn + zextByte b).toNat = nnn.toNat + b.toNat := by
  rw [BitVec.toNat_add, zextAddr_toNat, zextByte_toNat, Nat.mod_eq_of_lt]
  have := nnn.isLt
  have := b.isLt
  omega

/-- A waiting key wait puts PC back on the instruction (43_keypad_timers R193). -/
theorem State.advance_setPc_back (s : State) : s.advance.setPc (s.advance.pc - 2) = s := by
  rw [State.advance_pc, BitVec.add_sub_cancel]
  rfl

/-- The largest PC an instruction leaves is that of JP V0 from 0xFFF with V0 = 0xFF (10_state R25). -/
theorem exec_advance_pc_le {i : Instr} {s t : State} (h : exec i s.advance = .next t) (hpc : s.pc.toNat ≤ 0xFFE)
    (hstack : ∀ j : Fin 16, j.val < s.sp.val → (s.stack[j.val]).toNat ≤ 0x1000) : t.pc.toNat ≤ 0x10FE := by
  have hadv : s.advance.pc.toNat ≤ 0x1000 := State.advance_pc_le hpc
  have hjump (nnn : Addr) : (zextAddr nnn).toNat ≤ 0x10FE := by
    rw [zextAddr_toNat]
    have := nnn.isLt
    omega
  cases i with
  | ret =>
    rcases exec_ret_cases h with ⟨-, rfl⟩ | ⟨hsp, rfl⟩
    · exact hadv.trans (by decide)
    · exact (hstack ⟨s.sp.val - 1, by omega⟩ (Nat.sub_lt hsp Nat.one_pos)).trans (by decide)
  | call nnn =>
    rcases exec_call_cases h with ⟨-, rfl⟩ | ⟨hsp, rfl⟩
    · exact hadv.trans (by decide)
    · exact hjump nnn
  | jp nnn => cases h; exact hjump nnn
  | jpV0 nnn =>
    cases h
    rw [State.setPc_pc, jumpSum_toNat]
    have := nnn.isLt
    have := (s.advance.getV 0).isLt
    omega
  | seImm | sneImm | seReg | sneReg | skp | sknp =>
    cases h
    exact (State.skipIf_pc_le _ hadv).trans (by decide)
  | ldVxK x =>
    rcases exec_ldVxK_cases h with ⟨-, rfl⟩ | ⟨k, -, rfl⟩
    · rw [State.advance_setPc_back]
      exact hpc.trans (by decide)
    · exact hadv.trans (by decide)
  | _ =>
    have hsame : t.pc = s.advance.pc :=
      (everyInstructionFrame _ _ t h).partsSame .pc (by simp [Instr.writtenParts])
    rw [hsame]
    exact hadv.trans (by decide)

end Sys2Proof.Machine
end

section
/-! A step keeps the invariant (10_state R39, 60_exceptions R232). -/

namespace Sys2Proof.Machine

/-- An unknown word is reported as itself (30_encoding R98). -/
theorem decode_self_of_unknown {w u : Word} (h : decode w = .unknown u) : decode u = .unknown u := by
  obtain ⟨rfl, -⟩ := (unknownSpaceExact w u).mp h
  exact h

section
variable {s t : State} (hinv : Inv s)
include hinv

theorem Inv.raise_pcOutOfBounds (hl : s.loaded = true) (hf : s.canFetch = false) :
    Inv (s.raise .pcOutOfBounds) where
  memWf := hinv.memWf
  pcBound := hinv.pcBound
  stackBound := hinv.stackBound
  awaitAtKeyWait ha := by
    obtain ⟨-, -, hcan, -⟩ := hinv.awaitAtKeyWait ha
    exact absurd (hcan.symm.trans hf) (by decide)
  haltEvidence c hc := by
    cases hc
    exact ⟨hl, State.canFetch_eq_false_iff.mp hf⟩
  diagUnknown := hinv.diagUnknown
  unloadedPc := hinv.unloadedPc
  cfgOk := hinv.cfgOk

/-- An unknown word moves PC on and adds one event (30_encoding R99). -/
theorem Inv.advance_report {w : Word} (hl : s.loaded = true) (hr : s.status = .running) (hpc : s.pc.toNat ≤ 0xFFE)
    (hd : decode (s.fetch s.pc.toNat) = .unknown w) : Inv (s.advance.report s.pc w) where
  memWf := hinv.memWf
  pcBound := (State.advance_pc_le hpc).trans (by decide)
  stackBound := hinv.stackBound
  awaitAtKeyWait ha := by
    obtain ⟨-, -, -, x, hx⟩ := hinv.awaitAtKeyWait ha
    cases hx.symm.trans hd
  haltEvidence c hc := by cases hr.symm.trans hc
  diagUnknown e he := by
    rcases List.mem_append.mp he with hold | hnew
    · exact hinv.diagUnknown e hold
    · obtain rfl := List.mem_singleton.mp hnew
      exact ⟨hpc, decode_self_of_unknown hd⟩
  unloadedPc hu := by cases hl.symm.trans hu
  cfgOk := hinv.cfgOk

/-- The execution of the fetched instruction (10_state R39). -/
theorem Inv.exec_advance {i : Instr} (hl : s.loaded = true) (hr : s.status = .running) (hf : s.canFetch = true)
    (hd : decode (s.fetch s.pc.toNat) = .instr i) (h : exec i s.advance = .next t) : Inv t where
  memWf := exec_memWf h hinv.memWf
  pcBound := exec_advance_pc_le h (State.canFetch_eq_true_iff.mp hf) hinv.stackBound
  stackBound := exec_stackBound h (State.advance_pc_le (State.canFetch_eq_true_iff.mp hf)) hinv.stackBound
  awaitAtKeyWait ha := by
    rcases (exec_await h).mp ha with ⟨⟨x, rfl⟩, hnone⟩ | ⟨hno, hold⟩
    · cases (exec_ldVxK_of_none x hnone).symm.trans h
      rw [State.advance_setPc_back]
      exact ⟨hl, hr, hf, x, hd⟩
    · obtain ⟨-, -, -, x, hx⟩ := hinv.awaitAtKeyWait hold
      cases hx.symm.trans hd
      exact absurd rfl (hno x)
  haltEvidence c hc := by
    refine ⟨(exec_loaded h).trans hl, ?_⟩
    rcases exec_status_cases h with hsame | ⟨-, hsp, rfl⟩ | ⟨nnn, -, hsp, rfl⟩
    · cases (hsame.trans hr).symm.trans hc
    · cases hc
      exact hsp
    · cases hc
      exact hsp
  diagUnknown := (exec_diag h).symm ▸ hinv.diagUnknown
  unloadedPc hu := by cases ((exec_loaded h).trans hl).symm.trans hu
  cfgOk := (exec_cfg h).symm ▸ hinv.cfgOk

end

/-- Settles O57, by the four things a step can do. -/
theorem stepKeepsInvariant : Obligations.StepKeepsInvariant := by
  intro s t hinv h
  obtain ⟨hl, ⟨c, -, rfl⟩ | ⟨-, hf, rfl⟩ | ⟨hr, hf, i, hd, hexec⟩ | ⟨hr, hf, w, hd, rfl⟩⟩ := step_cases h
  · exact hinv
  · exact hinv.raise_pcOutOfBounds hl hf
  · exact hinv.exec_advance hl hr hf hd hexec
  · exact hinv.advance_report hl hr (State.canFetch_eq_true_iff.mp hf) hd

end Sys2Proof.Machine
end

section
/-! The driver's transactions (10_state R36 to R41, 70_reset_and_hazards), and the invariant under any interleaving. -/

namespace Sys2Proof.Machine

theorem State.doReset_of_legal (s : State) {c : Cfg} (h : cfgLegal c = true) :
    s.doReset c = .next { State.resetWith c with draws := s.draws } :=
  if_pos h

theorem State.doReset_of_not_legal (s : State) {c : Cfg} (h : cfgLegal c = false) :
    s.doReset c = .refused .illegalConfig := by
  simp [State.doReset, h]

theorem State.doLoad_of_loaded {s : State} (image : List Byte) (hl : s.loaded = true) :
    s.doLoad image = .refused .secondLoad :=
  if_pos hl

theorem State.doLoad_of_valid {s : State} {image : List Byte} (hl : s.loaded = false)
    (hv : imageValid s.cfg image = true) : s.doLoad image =
      .next { s with mem := Memory.writeBytes s.mem s.cfg.loadOffset.toNat image, loaded := true } := by
  simp [State.doLoad, hl, hv]

theorem State.doLoad_of_not_valid {s : State} {image : List Byte} (hl : s.loaded = false)
    (hv : imageValid s.cfg image = false) : s.doLoad image = .next s := by
  simp [State.doLoad, hl, hv]

theorem State.doSetKey_of_lt (s : State) {k : Nat} (p : Bool) (h : k < 16) :
    s.doSetKey k p = .next { s with key := s.key.set k p h } :=
  dif_pos h

theorem State.doSetKey_of_le (s : State) {k : Nat} (p : Bool) (h : 16 ≤ k) :
    s.doSetKey k p = .refused .keyOutOfRange :=
  dif_neg (Nat.not_lt.mpr h)

theorem cfgLegal_iff {c : Cfg} : cfgLegal c = true ↔ 0x200 ≤ c.loadOffset.toNat ∧ c.loadOffset.toNat ≤ 0xFFF := by
  simp [cfgLegal]

theorem imageValid_iff {c : Cfg} {image : List Byte} :
    imageValid c image = true ↔ 1 ≤ image.length ∧ image.length ≤ 4096 - c.loadOffset.toNat := by
  rw [imageValid, Bool.and_eq_true, decide_eq_true_iff, decide_eq_true_iff, memSize]

/-- A legal configuration gives an engine that meets the invariant, whatever the model's counter is (10_state R43). -/
theorem inv_resetWith {c : Cfg} (hc : cfgLegal c = true) (n : Nat) : Inv { State.resetWith c with draws := n } where
  memWf := Memory.wf_nil
  pcBound := (cfgLegal_iff.mp hc).2.trans (by decide)
  stackBound _ hj := absurd hj (Nat.not_lt_zero _)
  awaitAtKeyWait ha := absurd ha Bool.false_ne_true
  haltEvidence _ := nofun
  diagUnknown _ he := absurd he List.not_mem_nil
  unloadedPc _ := rfl
  cfgOk := hc

/-- Settles O56: the legal configurations, that of `State.reset` among them. -/
theorem resetMeetsInvariant : Obligations.ResetMeetsInvariant :=
  ⟨inv_resetWith (c := Config.cfg) (by decide) 0, fun _ hc => inv_resetWith hc 0⟩

section
variable {s : State} (hinv : Inv s)
include hinv

/-- The invariant speaks neither of the counters nor of the keys. -/
theorem Inv.setTimersKeys (dt st : Byte) (key : Vector Bool 16) : Inv { s with dt := dt, st := st, key := key } where
  memWf := hinv.memWf
  pcBound := hinv.pcBound
  stackBound := hinv.stackBound
  awaitAtKeyWait := hinv.awaitAtKeyWait
  haltEvidence := hinv.haltEvidence
  diagUnknown := hinv.diagUnknown
  unloadedPc := hinv.unloadedPc
  cfgOk := hinv.cfgOk

/-- A valid image ends inside the address space, and an unloaded engine neither waits nor is halted. -/
theorem Inv.load {image : List Byte} (hl : s.loaded = false) (hv : imageValid s.cfg image = true) :
    Inv { s with mem := Memory.writeBytes s.mem s.cfg.loadOffset.toNat image, loaded := true } where
  memWf := by
    obtain ⟨-, hsize⟩ := imageValid_iff.mp hv
    obtain ⟨-, hoffset⟩ := cfgLegal_iff.mp hinv.cfgOk
    exact Memory.wf_writeBytes hinv.memWf (by rw [memSize]; omega)
  pcBound := hinv.pcBound
  stackBound := hinv.stackBound
  awaitAtKeyWait ha := by cases hl.symm.trans (hinv.awaitAtKeyWait ha).1
  haltEvidence c hc := by cases hl.symm.trans (hinv.haltEvidence c hc).1
  diagUnknown := hinv.diagUnknown
  unloadedPc := nofun
  cfgOk := hinv.cfgOk

/-- Every transaction that answers keeps the invariant (10_state R36). -/
theorem Inv.transact {tr : Transaction} {t : State} (h : transact tr s = .next t) : Inv t := by
  cases tr with
  | reset c =>
    cases hc : cfgLegal c with
    | true => cases (s.doReset_of_legal hc).symm.trans h; exact inv_resetWith hc _
    | false => cases (s.doReset_of_not_legal hc).symm.trans h
  | load image =>
    cases hl : s.loaded with
    | true => cases (State.doLoad_of_loaded image hl).symm.trans h
    | false =>
      cases hv : imageValid s.cfg image with
      | true => cases (State.doLoad_of_valid hl hv).symm.trans h; exact hinv.load hl hv
      | false => cases (State.doLoad_of_not_valid hl hv).symm.trans h; exact hinv
  | step => exact stepKeepsInvariant s t hinv h
  | tick => cases h; exact hinv.setTimersKeys _ _ _
  | setKey k p =>
    rcases Nat.lt_or_ge k 16 with hk | hk
    · cases (s.doSetKey_of_lt p hk).symm.trans h; exact hinv.setTimersKeys _ _ _
    · cases (s.doSetKey_of_le p hk).symm.trans h

end

theorem runAll_cons {tr : Transaction} {ts : List Transaction} {s u : State} (h : runAll (tr :: ts) s = .next u) :
    ∃ t, transact tr s = .next t ∧ runAll ts t = .next u := by
  rw [runAll] at h
  split at h
  · exact ⟨_, ‹_›, h⟩
  · cases h
  · cases h

/-- What each transaction of a sequence keeps, the whole sequence keeps. -/
theorem runAll_induction {P : State → Prop} {ts : List Transaction} {s t : State}
    (hkeep : ∀ tr ∈ ts, ∀ u u' : State, P u → transact tr u = .next u' → P u') (hs : P s)
    (h : runAll ts s = .next t) : P t := by
  induction ts generalizing s with
  | nil => cases h; exact hs
  | cons tr ts ih =>
    obtain ⟨u, hu, hrest⟩ := runAll_cons h
    exact ih (fun tr' hmem => hkeep tr' (List.mem_cons_of_mem _ hmem)) (hkeep tr List.mem_cons_self s u hs hu) hrest

/-- Settles O58, by induction over the sequence. -/
theorem transactionsKeepInvariant : Obligations.TransactionsKeepInvariant := fun _ _ _ hinv =>
  runAll_induction (fun _ _ _ _ hu => hu.transact) hinv

end Sys2Proof.Machine
end

section
/-! The fatal faults (60_exceptions R231, R232) and the halted engine (R239, R241). -/

namespace Sys2Proof.Machine

/-- Everything a step that halts a running engine can have done (60_exceptions R231, R232). -/
theorem step_fault_cases {s t : State} {c : FatalFault} (hr : s.status = .running) (h : step s = .next t)
    (hc : t.status = .halted c) :
    (c = .pcOutOfBounds ∧ 0xFFE < s.pc.toNat ∧ t = s.raise c) ∨
      (c = .stackOverflow ∧ s.pc.toNat ≤ 0xFFE ∧ s.sp.val = 16 ∧
        (∃ nnn, decode (s.fetch s.pc.toNat) = .instr (.call nnn)) ∧ t = s.advance.raise c) ∨
      (c = .stackUnderflow ∧ s.pc.toNat ≤ 0xFFE ∧ s.sp.val = 0 ∧ decode (s.fetch s.pc.toNat) = .instr .ret ∧
        t = s.advance.raise c) := by
  obtain ⟨-, ⟨c', hh, rfl⟩ | ⟨-, hf, rfl⟩ | ⟨-, hf, i, hd, hexec⟩ | ⟨-, -, w, -, rfl⟩⟩ := step_cases h
  · cases hr.symm.trans hh
  · cases hc
    exact .inl ⟨rfl, State.canFetch_eq_false_iff.mp hf, rfl⟩
  · have hpc := State.canFetch_eq_true_iff.mp hf
    rcases exec_status_cases hexec with hsame | ⟨rfl, hsp, rfl⟩ | ⟨nnn, rfl, hsp, rfl⟩
    · cases (hsame.trans hr).symm.trans hc
    · cases hc
      exact .inr (.inr ⟨rfl, hpc, hsp, hd, rfl⟩)
    · cases hc
      exact .inr (.inl ⟨rfl, hpc, hsp, ⟨nnn, hd⟩, rfl⟩)
  · cases hr.symm.trans hc

/-- Settles O48: the conditions are those of `step_fault_cases`, and under each of them the step takes its fault. -/
theorem faultsExactly : Obligations.FaultsExactly := by
  intro s c hl hr
  constructor
  · rintro ⟨t, h, hc⟩
    rcases step_fault_cases hr h hc with ⟨e, hpc, -⟩ | ⟨e, hpc, hsp, hd, -⟩ | ⟨e, hpc, hsp, hd, -⟩
    · exact .inl ⟨e, hpc⟩
    · exact .inr (.inl ⟨e, hpc, hsp, hd⟩)
    · exact .inr (.inr ⟨e, hpc, hsp, hd⟩)
  · rintro (⟨rfl, hpc⟩ | ⟨rfl, hpc, hsp, nnn, hd⟩ | ⟨rfl, hpc, hsp, hd⟩)
    · exact ⟨_, step_of_not_canFetch hl hr (State.canFetch_eq_false_iff.mpr hpc), rfl⟩
    · exact ⟨_, (step_of_instr hl hr hpc hd).trans (exec_call_of_full nnn hsp), rfl⟩
    · exact ⟨_, (step_of_instr hl hr hpc hd).trans (exec_ret_of_empty hsp), rfl⟩

/-- A fault in the execute phase: PC is advanced, STATUS latches the cause (60_exceptions R232). -/
theorem State.frame_advance_raise (s : State) (c : FatalFault) :
    Frame [] noByte [.pc, .status] s (s.advance.raise c) :=
  (s.frame_advance.mono_noByte (by simp) (by simp)).trans ((State.frame_raise _ c).mono_noByte (by simp) (by simp))

/-- Settles O49, by the three things a halting step can have done. -/
theorem faultsArePrecise : Obligations.FaultsArePrecise := by
  intro s t c hr h hc
  rcases step_fault_cases hr h hc with ⟨rfl, -, rfl⟩ | ⟨rfl, -, -, -, rfl⟩ | ⟨rfl, -, -, -, rfl⟩
  · exact ⟨(s.frame_raise _).mono_noByte (by simp) (by simp), rfl⟩
  · exact ⟨s.frame_advance_raise _, rfl⟩
  · exact ⟨s.frame_advance_raise _, rfl⟩

theorem State.frame_tick (s : State) : Frame [] noByte [.dt, .st] s s.tick :=
  .of_v_mem_eq rfl rfl fun p hp => by
    cases p with
    | dt | st => exact absurd hp (by decide)
    | _ => rfl

theorem State.frame_setKey (s : State) {k : Nat} (p : Bool) (hk : k < 16) :
    Frame [] noByte [.key] s { s with key := s.key.set k p hk } :=
  .of_v_mem_eq rfl rfl fun p hp => by
    cases p with
    | key => exact absurd hp (by decide)
    | _ => rfl

/-- No transaction but `reset` moves a halted engine on: `load` is refused, `step` changes nothing, `tick` and
`set_key` write the counters and a key (60_exceptions R239, R244). -/
theorem transact_frame_of_halted {tr : Transaction} {s t : State} {c : FatalFault} (hl : s.loaded = true)
    (hh : s.status = .halted c) (hreset : ∀ cfg, tr ≠ .reset cfg) (h : transact tr s = .next t) :
    Frame [] noByte [.dt, .st, .key] s t := by
  cases tr with
  | reset cfg => exact absurd rfl (hreset cfg)
  | load image => cases (State.doLoad_of_loaded image hl).symm.trans h
  | step =>
    cases (step_of_halted hl hh).symm.trans h
    exact .refl _ _ _ s
  | tick =>
    cases h
    exact s.frame_tick.mono_noByte (by simp) (by simp)
  | setKey k p =>
    rcases Nat.lt_or_ge k 16 with hk | hk
    · cases (s.doSetKey_of_lt p hk).symm.trans h
      exact (s.frame_setKey p hk).mono_noByte (by simp) (by simp)
    · cases (s.doSetKey_of_le p hk).symm.trans h

/-- Settles O50, by induction over the sequence: the frame so far keeps LOADED and STATUS, so the next transaction meets
a halted engine again. -/
theorem haltedUntilReset : Obligations.HaltedUntilReset := by
  intro ts s t c hl hh hreset h
  have hframe : Frame [] noByte [.dt, .st, .key] s t := by
    refine runAll_induction (fun tr hmem u u' hu hnext => hu.trans ?_) (.refl _ _ _ s) h
    have hlu : u.loaded = s.loaded := hu.partsSame .loaded (by decide)
    have hhu : u.status = s.status := hu.partsSame .status (by decide)
    exact transact_frame_of_halted (hlu.trans hl) (hhu.trans hh) (fun cfg e => hreset cfg (e ▸ hmem)) hnext
  have hstatus : t.status = s.status := hframe.partsSame .status (by decide)
  exact ⟨hstatus.trans hh, hframe⟩

end Sys2Proof.Machine
end

section
/-! AWAIT (10_state R32, 43_keypad_timers R193). -/

namespace Sys2Proof.Machine

/-- Settles O51: an instruction sets AWAIT exactly when it is a key wait that finds no key; the invariant rules out that
AWAIT is 1 where the step runs no key wait. -/
theorem awaitExactlyWhileWaiting : Obligations.AwaitExactlyWhileWaiting := by
  intro s t hinv hr h
  obtain ⟨-, ⟨c, hh, rfl⟩ | ⟨-, hf, rfl⟩ | ⟨-, hf, i, hd, hexec⟩ | ⟨-, hf, w, hd, rfl⟩⟩ := step_cases h
  · cases hr.symm.trans hh
  · constructor
    · intro ha
      obtain ⟨-, -, hcan, -⟩ := hinv.awaitAtKeyWait ha
      cases hcan.symm.trans hf
    · rintro ⟨hpc, -⟩
      cases (State.canFetch_eq_true_iff.mpr hpc).symm.trans hf
  · rw [exec_await hexec, hd]
    constructor
    · rintro (⟨⟨x, rfl⟩, hnone⟩ | ⟨hno, ha⟩)
      · exact ⟨State.canFetch_eq_true_iff.mp hf, ⟨x, rfl⟩, State.lowestKey_eq_none.mp hnone⟩
      · obtain ⟨-, -, -, x, hx⟩ := hinv.awaitAtKeyWait ha
        cases hx.symm.trans hd
        exact absurd rfl (hno x)
    · rintro ⟨-, ⟨x, hx⟩, hkeys⟩
      cases hx
      exact .inl ⟨⟨x, rfl⟩, State.lowestKey_eq_none.mpr hkeys⟩
  · constructor
    · intro ha
      obtain ⟨-, -, -, x, hx⟩ := hinv.awaitAtKeyWait ha
      cases hx.symm.trans hd
    · rintro ⟨-, ⟨x, hx⟩, -⟩
      cases hx.symm.trans hd

end Sys2Proof.Machine
end

section
/-! What no instruction reads: the outputs ST, DIAG and AWAIT (60_exceptions R236), and the grid (10_state R30). -/

namespace Sys2Proof.Machine

/-- The state with other outputs: ST, DIAG and AWAIT. -/
def State.withOutputs (s : State) (st : Byte) (diag : List DiagEvent) (await : Bool) : State :=
  { s with st := st, diag := diag, await := await }

theorem State.frame_withOutputs (s : State) (st : Byte) (diag : List DiagEvent) (await : Bool) :
    Frame [] noByte [.st, .diag, .await] s (s.withOutputs st diag await) :=
  .of_v_mem_eq rfl rfl fun p hp => by
    cases p with
    | st | diag | await => exact absurd hp (by decide)
    | _ => rfl

/-- A change of the state that neither touches nor reads what a block store works on may be made before or after it. -/
theorem State.storeBlock_comm {f : State → State} {s : State}
    (hwrite : ∀ (t : State) (a : Nat) (b : Byte), (f t).memWrite a b = f (t.memWrite a b)) (hi : (f s).i = s.i)
    (hv : ∀ r, (f s).getV r = s.getV r) (count : Nat) : (f s).storeBlock count = f (s.storeBlock count) := by
  induction count with
  | zero => rfl
  | succ c ih => rw [State.storeBlock_succ, State.storeBlock_succ, ih, hwrite, hi, hv]

theorem State.loadBlock_comm {f : State → State} {s : State}
    (hwrite : ∀ (t : State) (r : Reg) (b : Byte), (f t).setV r b = f (t.setV r b)) (hi : (f s).i = s.i)
    (hread : ∀ a, (f s).memRead a = s.memRead a) (count : Nat) : (f s).loadBlock count = f (s.loadBlock count) := by
  induction count with
  | zero => rfl
  | succ c ih => rw [State.loadBlock_succ, State.loadBlock_succ, ih, hwrite, hi, hread]

theorem State.storeBlock_withOutputs (s : State) (st : Byte) (diag : List DiagEvent) (await : Bool) (count : Nat) :
    (s.withOutputs st diag await).storeBlock count = (s.storeBlock count).withOutputs st diag await :=
  State.storeBlock_comm (f := (State.withOutputs · st diag await)) (fun _ _ _ => rfl) rfl (fun _ => rfl) count

theorem State.loadBlock_withOutputs (s : State) (st : Byte) (diag : List DiagEvent) (await : Bool) (count : Nat) :
    (s.withOutputs st diag await).loadBlock count = (s.loadBlock count).withOutputs st diag await :=
  State.loadBlock_comm (f := (State.withOutputs · st diag await)) (fun _ _ _ => rfl) rfl (fun _ => rfl) count

/-- Other outputs before an instruction are other outputs after it; LD ST and LD Vx, K replace one of them. -/
theorem exec_withOutputs {i : Instr} {s t : State} (st : Byte) (diag : List DiagEvent) (await : Bool)
    (h : exec i s = .next t) :
    ∃ st' await', exec i (s.withOutputs st diag await) = .next (t.withOutputs st' diag await') := by
  cases i with
  | ret =>
    rcases exec_ret_cases h with ⟨hsp, rfl⟩ | ⟨hsp, rfl⟩
    · exact ⟨st, await, exec_ret_of_empty hsp⟩
    · exact ⟨st, await, exec_ret_of_pos (s := s.withOutputs st diag await) hsp⟩
  | call nnn =>
    rcases exec_call_cases h with ⟨hsp, rfl⟩ | ⟨hsp, rfl⟩
    · exact ⟨st, await, exec_call_of_full nnn hsp⟩
    · exact ⟨st, await, exec_call_of_lt (s := s.withOutputs st diag await) nnn hsp⟩
  | ldVxK x =>
    rcases exec_ldVxK_cases h with ⟨hk, rfl⟩ | ⟨k, hk, rfl⟩
    · exact ⟨st, true, exec_ldVxK_of_none (s := s.withOutputs st diag await) x hk⟩
    · exact ⟨st, false, exec_ldVxK_of_some (s := s.withOutputs st diag await) x hk⟩
  | ldSTVx x => cases h; exact ⟨s.getV x, await, rfl⟩
  | storeRegs =>
    cases h
    exact ⟨st, await, by rw [exec_storeRegs, State.storeBlock_withOutputs]; rfl⟩
  | loadRegs =>
    cases h
    exact ⟨st, await, by rw [exec_loadRegs, State.loadBlock_withOutputs]; rfl⟩
  | _ => cases h; exact ⟨st, await, rfl⟩

/-- Settles O52: what the instruction leaves of the changed outputs is all that differs after it. -/
theorem outputsAreNeverRead : Obligations.OutputsAreNeverRead := by
  intro i s t st diag await h
  obtain ⟨st', await', hexec⟩ := exec_withOutputs st diag await h
  exact ⟨_, hexec, t.frame_withOutputs st' diag await'⟩

theorem State.storeBlock_setFb (s : State) (fb : Display) (count : Nat) :
    (s.setFb fb).storeBlock count = (s.storeBlock count).setFb fb :=
  State.storeBlock_comm (f := (State.setFb · fb)) (fun _ _ _ => rfl) rfl (fun _ => rfl) count

theorem State.loadBlock_setFb (s : State) (fb : Display) (count : Nat) :
    (s.setFb fb).loadBlock count = (s.loadBlock count).setFb fb :=
  State.loadBlock_comm (f := (State.setFb · fb)) (fun _ _ _ => rfl) rfl (fun _ => rfl) count

/-- Another grid before an instruction other than DRW is another grid after it; CLS replaces it. -/
theorem exec_setFb {i : Instr} {s t : State} (fb : Display) (hdrw : ∀ x y n, i ≠ .drw x y n)
    (h : exec i s = .next t) : ∃ fb', exec i (s.setFb fb) = .next (t.setFb fb') := by
  cases i with
  | drw x y n => exact absurd rfl (hdrw x y n)
  | ret =>
    rcases exec_ret_cases h with ⟨hsp, rfl⟩ | ⟨hsp, rfl⟩
    · exact ⟨fb, exec_ret_of_empty hsp⟩
    · exact ⟨fb, exec_ret_of_pos (s := s.setFb fb) hsp⟩
  | call nnn =>
    rcases exec_call_cases h with ⟨hsp, rfl⟩ | ⟨hsp, rfl⟩
    · exact ⟨fb, exec_call_of_full nnn hsp⟩
    · exact ⟨fb, exec_call_of_lt (s := s.setFb fb) nnn hsp⟩
  | ldVxK x =>
    rcases exec_ldVxK_cases h with ⟨hk, rfl⟩ | ⟨k, hk, rfl⟩
    · exact ⟨fb, exec_ldVxK_of_none (s := s.setFb fb) x hk⟩
    · exact ⟨fb, exec_ldVxK_of_some (s := s.setFb fb) x hk⟩
  | cls => cases h; exact ⟨Display.blank, rfl⟩
  | storeRegs =>
    cases h
    exact ⟨fb, by rw [exec_storeRegs, State.storeBlock_setFb]; rfl⟩
  | loadRegs =>
    cases h
    exact ⟨fb, by rw [exec_loadRegs, State.loadBlock_setFb]; rfl⟩
  | _ => cases h; exact ⟨fb, rfl⟩

/-- Two DRWs from states that differ in the grid leave states that differ in the grid and in the collision flag. -/
theorem State.frame_setFb_setFlag_of_setFb (s : State) (fb fb' fb'' : Display) (f f' : Bool) :
    Frame [regF] noByte [.fb] ((s.setFb fb').setFlag f) (((s.setFb fb).setFb fb'').setFlag f') where
  regsSame r hr := by
    have hne : r ≠ regF := List.ne_of_not_mem_cons hr
    simp [hne]
  bytesSame _ _ := rfl
  partsSame p hp := by
    cases p with
    | fb => exact absurd hp (by decide)
    | _ => rfl

/-- Settles O53: DRW draws its own grid and flag from either grid, every other instruction carries the grid along. -/
theorem pixelsFeedOnlyCollision : Obligations.PixelsFeedOnlyCollision := by
  intro i s t fb h
  cases i with
  | drw x y n =>
    cases h
    exact ⟨_, exec_drw x y n (s.setFb fb), s.frame_setFb_setFlag_of_setFb _ _ _ _ _⟩
  | _ =>
    obtain ⟨fb', hexec⟩ := exec_setFb fb (by simp) h
    exact ⟨_, hexec, t.frame_setFb fb'⟩

end Sys2Proof.Machine
end

section
/-! `tick` and `set_key` (10_state R40, R41). -/

namespace Sys2Proof.Machine

/-- One tick takes a counter down by 1, never below 0 (10_state R40). -/
theorem countDown_toNat (b : Byte) : (countDown b).toNat = b.toNat - 1 := by
  unfold countDown
  split
  · bv_omega
  · omega

/-- Settles O35, by induction on the number of ticks. -/
theorem ticksCountDown : Obligations.TicksCountDown := by
  intro n
  induction n with
  | zero => exact fun s => ⟨s, rfl, rfl, rfl, .refl _ _ _ s⟩
  | succ n ih =>
    intro s
    obtain ⟨t, hrun, hdt, hst, hframe⟩ := ih s.tick
    refine ⟨t, hrun, ?_, ?_, s.frame_tick.trans hframe⟩
    · rw [hdt, State.tick_dt, countDown_toNat, Nat.sub_sub, Nat.add_comm]
    · rw [hst, State.tick_st, countDown_toNat, Nat.sub_sub, Nat.add_comm]

/-- Settles O36: the write of one key with its frame, or the refusal. -/
theorem setKeyWritesOneKey : Obligations.SetKeyWritesOneKey := by
  refine fun k p s => ⟨fun hk => ⟨_, s.doSetKey_of_lt p hk, fun j => ?_, s.frame_setKey p hk⟩, s.doSetKey_of_le p⟩
  rw [Vector.getElem_set]
  exact if_congr eq_comm rfl rfl

end Sys2Proof.Machine
end

section
/-! CALLs and the RETs that undo them (40_flow R122, R124). -/

namespace Sys2Proof.Machine

theorem execAll_append_of_next {is : List Instr} {s t : State} (js : List Instr) (h : execAll is s = .next t) :
    execAll (is ++ js) s = execAll js t := by
  induction is generalizing s with
  | nil => cases h; rfl
  | cons i is ih =>
    obtain ⟨u, hu⟩ := exec_next i s
    rw [List.cons_append, execAll_cons_of_next _ hu]
    exact ih ((execAll_cons_of_next is hu).symm.trans h)

/-- A piece of state that came back to what it was need not be named. -/
theorem Frame.of_same {regs : List Reg} {stored : Nat → Prop} {p : Part} {parts : List Part} {s t : State}
    (h : Frame regs stored (p :: parts) s t) (hp : p.same s t) : Frame regs stored parts s t where
  regsSame := h.regsSame
  bytesSame := h.bytesSame
  partsSame q hq := by
    rcases eq_or_ne q p with rfl | hne
    · exact hp
    · exact h.partsSame q (List.not_mem_cons_of_ne_of_not_mem hne hq)

/-- One RET more after the CALLs, seen from the other end of the list. -/
theorem map_ret_cons (n : Addr) (ns : List Addr) :
    (n :: ns).map (fun _ => Instr.ret) = ns.map (fun _ => Instr.ret) ++ [.ret] := by
  simp only [List.map_const', List.length_cons, List.replicate_succ']

/-- CALLs that fit the stack, and as many RETs: they write stack slots only, and none that was in use before. -/
theorem execAll_calls_rets (ns : List Addr) {s : State} (hfit : s.sp.val + ns.length ≤ 16) :
    ∃ t, execAll (ns.map .call ++ ns.map (fun _ => .ret)) s = .next t ∧ t.pc = s.pc ∧ t.sp = s.sp ∧
      Frame [] noByte [.stack] s t ∧ ∀ j : Fin 16, j.val < s.sp.val → t.stack[j.val] = s.stack[j.val] := by
  induction ns generalizing s with
  | nil => exact ⟨s, rfl, rfl, rfl, .refl _ _ _ s, fun _ _ => rfl⟩
  | cons n ns ih =>
    rw [List.length_cons] at hfit
    have hlt : s.sp.val < 16 := by omega
    have hin : ((s.push s.pc hlt).setPc (zextAddr n)).sp.val = s.sp.val + 1 := rfl
    obtain ⟨t, hrun, -, hsp, hframe, hold⟩ := ih (s := (s.push s.pc hlt).setPc (zextAddr n)) (by omega)
    have htsp : t.sp.val = s.sp.val + 1 := congrArg Fin.val hsp
    have hpos : 0 < t.sp.val := by omega
    have hslot (j : Fin 16) (hj : j.val < s.sp.val + 1) :
        t.stack[j.val] = if j.val = s.sp.val then s.pc else s.stack[j.val] := by
      rw [hold j hj, State.setPc_stack, State.getElem_push_stack]
    have hpc : (t.popPc hpos).pc = s.pc := by
      rw [State.popPc_pc_of_top hpos (j := ⟨s.sp.val, hlt⟩) htsp.symm, hslot _ (Nat.lt_succ_self _), if_pos rfl]
    have hback : (t.popPc hpos).sp = s.sp := Fin.ext (Nat.sub_eq_of_eq_add htsp)
    have hall : Frame [] noByte [.pc, .sp, .stack] s (t.popPc hpos) :=
      ((s.frame_push_setPc _ _ hlt).trans (hframe.mono_noByte (by simp) (by simp))).trans
        ((t.frame_popPc hpos).mono_noByte (by simp) (by simp))
    refine ⟨t.popPc hpos, ?_, hpc, hback, (hall.of_same hpc).of_same hback, fun j hj => ?_⟩
    · rw [map_ret_cons, List.map_cons, List.cons_append, ← List.append_assoc,
        execAll_cons_of_next _ (exec_call_of_lt n hlt), execAll_append_of_next _ hrun,
        execAll_cons_of_next _ (exec_ret_of_pos hpos), execAll_nil]
    · exact (hslot j (by omega)).trans (if_neg (by omega))

/-- Settles O14, from the run of the CALLs and the RETs, by induction on the number of CALLs. -/
theorem callsReturnInOrder : Obligations.CallsReturnInOrder := by
  intro s ns hfit
  obtain ⟨t, hrun, hpc, hsp, hframe, -⟩ := execAll_calls_rets ns hfit
  exact ⟨t, hrun, hpc, hsp, hframe⟩

end Sys2Proof.Machine
end

section
/-! What the draw unit leaves in the grid (42_display R173). -/

namespace Sys2Proof.Machine

/-- A sprite pixel toggles the grid pixel it covers. -/
theorem drawPixel_get_of_covers {q : DrawWrapQuirk} {x0 y0 : Nat} {rows : List Byte} {p : Nat × Nat} {X : Fin 64}
    {Y : Fin 32} (acc : Display × Bool) (h : PixelCovers q x0 y0 rows p X Y) :
    Display.get (drawPixel q x0 y0 rows acc p).1 X Y = !(Display.get acc.1 X Y) := by
  obtain ⟨hbit, hland⟩ := h
  rw [drawPixel, drawBit_get, hbit, decide_eq_true (pixelTarget_eq_some_iff_lands.mpr hland), Bool.and_true,
    Bool.xor_true]

theorem drawPixel_get_of_not_covers {q : DrawWrapQuirk} {x0 y0 : Nat} {rows : List Byte} {p : Nat × Nat} {X : Fin 64}
    {Y : Fin 32} (acc : Display × Bool) (h : ¬ PixelCovers q x0 y0 rows p X Y) :
    Display.get (drawPixel q x0 y0 rows acc p).1 X Y = Display.get acc.1 X Y := by
  have hoff : ((rows.getD p.1 0).getLsbD (7 - p.2) &&
      decide (pixelTarget q (x0 + p.2) (y0 + p.1) = some (X, Y))) = false := by
    rw [← Bool.not_eq_true, Bool.and_eq_true, decide_eq_true_iff, pixelTarget_eq_some_iff_lands]
    exact h
  rw [drawPixel, drawBit_get, hoff, Bool.xor_false]

/-- A run leaves alone a grid pixel that none of its pixels covers. -/
theorem foldl_drawPixel_get_of_not_covers {q : DrawWrapQuirk} {x0 y0 : Nat} {rows : List Byte}
    {ps : List (Nat × Nat)} {X : Fin 64} {Y : Fin 32} (acc : Display × Bool)
    (hmiss : ∀ p ∈ ps, ¬ PixelCovers q x0 y0 rows p X Y) :
    Display.get (ps.foldl (drawPixel q x0 y0 rows) acc).1 X Y = Display.get acc.1 X Y := by
  induction ps generalizing acc with
  | nil => rfl
  | cons p ps ih =>
    obtain ⟨hp, hps⟩ := List.forall_mem_cons.mp hmiss
    rw [List.foldl_cons, ih _ hps, drawPixel_get_of_not_covers acc hp]

/-- A run of distinct pixels toggles a grid pixel that one of them covers: no other one lands there. -/
theorem foldl_drawPixel_get_of_covers {q : DrawWrapQuirk} {x0 y0 : Nat} {rows : List Byte} {ps : List (Nat × Nat)}
    {p : Nat × Nat} {X : Fin 64} {Y : Fin 32} (acc : Display × Bool) (hnodup : ps.Nodup)
    (hsmall : ∀ p ∈ ps, p.1 < 32 ∧ p.2 < 8) (hmem : p ∈ ps) (hcov : PixelCovers q x0 y0 rows p X Y) :
    Display.get (ps.foldl (drawPixel q x0 y0 rows) acc).1 X Y = !(Display.get acc.1 X Y) := by
  induction ps generalizing acc with
  | nil => cases hmem
  | cons p' ps ih =>
    obtain ⟨hp', hps⟩ := List.forall_mem_cons.mp hsmall
    obtain ⟨hnotMem, hnodup'⟩ := List.nodup_cons.mp hnodup
    rw [List.foldl_cons]
    rcases List.mem_cons.mp hmem with rfl | htail
    · have hmiss : ∀ p' ∈ ps, ¬ PixelCovers q x0 y0 rows p' X Y := fun p' hmem' hcov' => by
        obtain rfl : p = p' := hcov.2.pixel_unique hcov'.2 hp' (hps p' hmem')
        exact hnotMem hmem'
      rw [foldl_drawPixel_get_of_not_covers _ hmiss, drawPixel_get_of_covers acc hcov]
    · have hne : p' ≠ p := fun e => hnotMem (e ▸ htail)
      rw [ih _ hnodup' hps htail, drawPixel_get_of_ne acc hne hp' (hps p htail) hcov]

/-- The pixels of a sprite of at most 32 rows. -/
theorem spritePixels_small {rows : List Byte} (hrows : rows.length ≤ 32) :
    ∀ p ∈ spritePixels rows, p.1 < 32 ∧ p.2 < 8 := fun p hp => by
  obtain ⟨hr, hc⟩ := mem_spritePixels.mp hp
  exact ⟨hr.trans_le hrows, hc⟩

section
variable {q : DrawWrapQuirk} {x0 y0 : Nat} {rows : List Byte} {fb : Display} {X : Fin 64} {Y : Fin 32}

theorem draw_get_of_covers (hrows : rows.length ≤ 32) (h : Covers q x0 y0 rows X Y) :
    Display.get (draw q x0 y0 rows fb).1 X Y = !(Display.get fb X Y) := by
  obtain ⟨p, hp, hcov⟩ := covers_iff_exists_pixelCovers.mp h
  rw [draw_eq_foldl]
  exact foldl_drawPixel_get_of_covers _ (nodup_spritePixels rows) (spritePixels_small hrows) hp hcov

theorem draw_get_of_not_covers (h : ¬ Covers q x0 y0 rows X Y) :
    Display.get (draw q x0 y0 rows fb).1 X Y = Display.get fb X Y := by
  rw [draw_eq_foldl]
  exact foldl_drawPixel_get_of_not_covers _ fun p hp hcov => h (covers_iff_exists_pixelCovers.mpr ⟨p, hp, hcov⟩)

end

/-- Settles O28, from the run over the pixels of the sprite; the origin may be anywhere. -/
theorem drawUnitXorsSprite : Obligations.DrawUnitXorsSprite := by
  intro q x0 y0 rows fb _ _ hlen
  have hrows : rows.length ≤ 32 := hlen.trans (by decide)
  exact ⟨fun _ _ => draw_get_of_covers hrows, fun _ _ => draw_get_of_not_covers, draw_collision_iff hrows⟩

end Sys2Proof.Machine
end

section
/-! DRW (42_display R174). -/

namespace Sys2Proof.Machine

/-- The rows that DRW reads at I are the ones the statements speak of (42_display R172). -/
theorem spriteCovers_iff {s : State} {x y : Reg} {n : Nibble} {X : Fin 64} {Y : Fin 32} :
    SpriteCovers s x y n X Y ↔ Covers s.cfg.drawWrapQuirk ((s.getV x).toNat % 64) ((s.getV y).toNat % 32)
      (s.spriteRows n) X Y := by
  have hlen : (s.spriteRows n).length = n.toNat := by rw [State.spriteRows, List.length_map, List.length_range]
  have hrow (r : Nat) (hr : r < n.toNat) : (s.spriteRows n).getD r 0 = Memory.read s.mem (s.effAddr r) := by
    rw [State.spriteRows, List.getD_eq_getElem _ _ (by simpa using hr), List.getElem_map, List.getElem_range]
    rfl
  unfold SpriteCovers Covers
  rw [hlen]
  refine exists_congr fun r => exists_congr fun c => and_congr_right fun hr => ?_
  rw [hrow r hr]

section
variable {s : State} {x y : Reg} {n : Nibble} {X : Fin 64} {Y : Fin 32}

theorem State.drawn_get_of_covers (h : SpriteCovers s x y n X Y) :
    Display.get (s.drawn x y n).1 X Y = !(Display.get s.fb X Y) :=
  draw_get_of_covers (s.length_spriteRows_le n) (spriteCovers_iff.mp h)

theorem State.drawn_get_of_not_covers (h : ¬ SpriteCovers s x y n X Y) :
    Display.get (s.drawn x y n).1 X Y = Display.get s.fb X Y :=
  draw_get_of_not_covers fun hcov => h (spriteCovers_iff.mpr hcov)

theorem State.drawn_collision_iff :
    (s.drawn x y n).2 = true ↔ ∃ X Y, SpriteCovers s x y n X Y ∧ Display.get s.fb X Y = true := by
  simp only [spriteCovers_iff]
  exact draw_collision_iff (s.length_spriteRows_le n)

end

/-- Settles O29: the drawn grid, the flag written last, and the frame of both writes. -/
theorem drwTogglesItsSprite : Obligations.DrwTogglesItsSprite := by
  refine fun x y n s => ⟨_, exec_drw x y n s, fun _ _ => State.drawn_get_of_covers,
    fun _ _ => State.drawn_get_of_not_covers, ?_, ?_, s.frame_setFb_setFlag _ _⟩
  · rw [State.getV_setFlag_regF]
    exact flagByte_eq_zero_or_one _
  · rw [State.getV_setFlag_regF, flagByte_eq_one, State.drawn_collision_iff]

/-- A sprite stays where it is when nothing changes but the grid and VF, which is no coordinate (42_display R174). -/
theorem spriteCovers_setFb_setFlag {s : State} {x y : Reg} (n : Nibble) (fb : Display) (f : Bool) (hx : x ≠ regF)
    (hy : y ≠ regF) (X : Fin 64) (Y : Fin 32) :
    SpriteCovers ((s.setFb fb).setFlag f) x y n X Y ↔ SpriteCovers s x y n X Y := by
  unfold SpriteCovers
  simp only [State.getV_setFlag, if_neg hx, if_neg hy]
  rfl

/-- Settles O30: both draws cover the same pixels; one that is covered is set at the second exactly when it was not set
before the first. -/
theorem drwTwiceRestores : Obligations.DrwTwiceRestores := by
  intro x y n s hx hy
  have hsame := spriteCovers_setFb_setFlag (s := s) n (s.drawn x y n).1 (s.drawn x y n).2 hx hy
  refine ⟨_, _, exec_drw x y n s, exec_drw x y n _, Display.ext_get fun X Y => ?_, ?_⟩
  · by_cases hcov : SpriteCovers s x y n X Y
    · exact (State.drawn_get_of_covers ((hsame X Y).mpr hcov)).trans
        (by simp [State.drawn_get_of_covers hcov])
    · exact (State.drawn_get_of_not_covers fun h => hcov ((hsame X Y).mp h)).trans
        (State.drawn_get_of_not_covers hcov)
  · rw [State.getV_setFlag_regF, flagByte_eq_one, State.drawn_collision_iff]
    refine exists_congr fun X => exists_congr fun Y => ?_
    rw [hsame]
    by_cases hcov : SpriteCovers s x y n X Y
    · simp [hcov, State.drawn_get_of_covers hcov]
    · simp [hcov, State.drawn_get_of_not_covers hcov]

end Sys2Proof.Machine
end

section
/-! LD B, LD [I], Vx and LD Vx, [I] (44_index_memory R214 to R216), and the fetch after a store (20_memory R76). -/

namespace Sys2Proof.Machine

/-- The addresses of a block of at most 4096 bytes through I are distinct (44_index_memory R210). -/
theorem State.effAddr_inj {s : State} {j k : Nat} (hj : j < memSize) (hk : k < memSize) :
    s.effAddr j = s.effAddr k ↔ j = k := by
  rw [memSize] at hj hk
  unfold State.effAddr memSize
  omega

/-- A byte read at an offset through I after a data write at another one. -/
theorem State.read_memWrite_effAddr {s : State} (t : State) {j k : Nat} (b : Byte) (hj : j < memSize)
    (hk : k < memSize) : Memory.read (t.memWrite (s.i.toNat + k) b).mem (s.effAddr j) =
      if j = k then b else Memory.read t.mem (s.effAddr j) := by
  have haddr : s.effAddr j = (s.i.toNat + k) % memSize ↔ j = k := s.effAddr_inj hj hk
  simp only [State.memWrite_mem, Memory.read_write, haddr]

/-- What a block store leaves at each address of its block (44_index_memory R215). -/
theorem State.read_storeBlock_effAddr (s : State) {count k : Nat} (hcount : count ≤ 16) (hk : k < count) :
    Memory.read (s.storeBlock count).mem (s.effAddr k) = s.getV (Fin.ofNat 16 k) := by
  induction count with
  | zero => cases hk
  | succ c ih =>
    rw [State.storeBlock_succ, State.read_memWrite_effAddr _ _ (by rw [memSize]; omega) (by rw [memSize]; omega)]
    split
    · rw [‹k = c›]
    · exact ih (by omega) (by omega)

theorem ofNat_val (k : Fin 16) : Fin.ofNat 16 k.val = k := Fin.ext (Nat.mod_eq_of_lt k.isLt)

/-- The stored byte of register k. -/
theorem State.read_storeBlock_of_le (s : State) {x : Reg} (k : Fin 16) (hk : k.val ≤ x.val) :
    Memory.read (s.storeBlock (x.val + 1)).mem (s.effAddr k.val) = s.getV k := by
  rw [s.read_storeBlock_effAddr (by omega) (Nat.lt_succ_of_le hk), ofNat_val]

/-- The register k after a block load. -/
theorem State.getV_loadBlock_of_le (s : State) {x : Reg} (k : Fin 16) (hk : k.val ≤ x.val) :
    (s.loadBlock (x.val + 1)).getV k = Memory.read s.mem (s.effAddr k.val) := by
  rw [s.getV_loadBlock (by omega), if_pos (Nat.lt_succ_of_le hk)]
  rfl

/-- I after a block move (44_index_memory R215, R216). -/
theorem State.incrementI_toNat (s : State) (x : Reg) : (s.incrementI x).i.toNat =
    if s.cfg.storeLoadIncrementQuirk = .on then (s.i.toNat + x.val + 1) % 65536 else s.i.toNat := by
  rw [State.incrementI_i]
  split
  · exact BitVec.toNat_ofNat _ _
  · rfl

theorem State.storeBlock_i (s : State) (count : Nat) : (s.storeBlock count).i = s.i := by
  rw [State.storeBlock_eq]

theorem State.storeBlock_cfg (s : State) (count : Nat) : (s.storeBlock count).cfg = s.cfg := by
  rw [State.storeBlock_eq]

theorem State.loadBlock_i (s : State) (count : Nat) : (s.loadBlock count).i = s.i := by
  rw [State.loadBlock_eq]

theorem State.loadBlock_cfg (s : State) (count : Nat) : (s.loadBlock count).cfg = s.cfg := by
  rw [State.loadBlock_eq]

/-- Settles O41: the stored bytes, the increment of I, and the frame of both. -/
theorem blockStoreWritesRegisters : Obligations.BlockStoreWritesRegisters := by
  refine fun x s => ⟨_, exec_storeRegs x s, s.read_storeBlock_of_le, ?_, s.frame_storeBlock_incrementI x _⟩
  rw [State.incrementI_toNat, State.storeBlock_i, State.storeBlock_cfg]

/-- Settles O42: the loaded registers, the increment of I, and the frame of both. -/
theorem blockLoadReadsRegisters : Obligations.BlockLoadReadsRegisters := by
  refine fun x s => ⟨_, exec_loadRegs x s, s.getV_loadBlock_of_le, ?_, s.frame_loadBlock_incrementI x⟩
  rw [State.incrementI_toNat, State.loadBlock_i, State.loadBlock_cfg]

/-- Settles O43: the load reads the addresses the store wrote, since I is the same. -/
theorem blockStoreThenLoad : Obligations.BlockStoreThenLoad := by
  intro x s t w h hmem hi
  cases (exec_storeRegs x s).symm.trans h
  refine ⟨_, exec_loadRegs x w, fun k hk => ?_⟩
  have haddr : w.effAddr k.val = s.effAddr k.val := by rw [State.effAddr, State.effAddr, hi]
  rw [State.incrementI_getV, w.getV_loadBlock_of_le k hk, hmem, haddr]
  exact s.read_storeBlock_of_le k hk

/-- Settles O44: the fetch reads the first two stored bytes, whose addresses are next to each other below 0xFFF. -/
theorem fetchSeesStore : Obligations.FetchSeesStore := by
  intro x s hx hlow
  have hnext : s.effAddr 0 + 1 = s.effAddr 1 := by
    unfold State.effAddr memSize at *
    omega
  refine ⟨_, exec_storeRegs x s, ?_⟩
  rw [State.fetch_toNat, hnext, State.incrementI_mem]
  exact congrArg₂ (fun hi lo : Byte => hi.toNat * 256 + lo.toNat) (s.read_storeBlock_of_le 0 (Nat.zero_le _))
    (s.read_storeBlock_of_le 1 hx)

/-! The digits of a byte (44_index_memory R214). -/

theorem bcd_sum (b : Byte) : 100 * (bcdHundreds b).toNat + 10 * (bcdTens b).toNat + (bcdOnes b).toNat = b.toNat := by
  have := b.isLt
  simp only [bcdHundreds, bcdTens, bcdOnes, BitVec.toNat_ofNat]
  omega

theorem bcdHundreds_le (b : Byte) : (bcdHundreds b).toNat ≤ 9 := by
  have := b.isLt
  rw [bcdHundreds, BitVec.toNat_ofNat]
  omega

theorem bcdTens_le (b : Byte) : (bcdTens b).toNat ≤ 9 := by
  rw [bcdTens, BitVec.toNat_ofNat]
  omega

theorem bcdOnes_le (b : Byte) : (bcdOnes b).toNat ≤ 9 := by
  rw [bcdOnes, BitVec.toNat_ofNat]
  omega

/-- The three stores of LD B do not overlap (44_index_memory R214). -/
theorem State.read_bcd (s : State) (b0 b1 b2 : Byte) {k : Nat} (hk : k < 3) :
    Memory.read (((s.memWrite (s.i.toNat + 0) b0).memWrite (s.i.toNat + 1) b1).memWrite (s.i.toNat + 2) b2).mem
      (s.effAddr k) = if k = 2 then b2 else if k = 1 then b1 else b0 := by
  have hlt : k < memSize := by rw [memSize]; omega
  rw [State.read_memWrite_effAddr _ _ hlt (by decide), State.read_memWrite_effAddr _ _ hlt (by decide),
    State.read_memWrite_effAddr _ _ hlt (by decide)]
  split
  · rfl
  split
  · rfl
  · exact if_pos (by omega)

/-- Settles O40: the three stored digits at their addresses, and the frame of the three stores. -/
theorem bcdStoresDigits : Obligations.BcdStoresDigits := by
  refine fun x s => ⟨_, exec_ldB x s, s.frame_bcd _ _ _, ?_, fun k hk => ?_⟩
  · rw [s.read_bcd _ _ _ (by decide), s.read_bcd _ _ _ (by decide), s.read_bcd _ _ _ (by decide)]
    exact bcd_sum _
  · rw [s.read_bcd _ _ _ hk]
    split
    · exact bcdOnes_le _
    split
    · exact bcdTens_le _
    · exact bcdHundreds_le _

end Sys2Proof.Machine
end

section
/-! The canonical form of the memory is one (20_memory R60, R73). -/

namespace Sys2Proof.Machine

/-- A listed byte lies inside the address space and is not what its address reads as when it is not listed. -/
theorem Memory.lt_and_ne_unlisted_of_lookup {lo a : Nat} {b : Byte} {m : Memory} (h : Memory.wfFrom lo m = true)
    (hb : Memory.lookup a m = some b) : a < memSize ∧ b ≠ Memory.unlisted a := by
  induction m generalizing lo with
  | nil => cases hb
  | cons e m ih =>
    obtain ⟨k, c⟩ := e
    obtain ⟨-, hk, hc, hm⟩ := (Memory.wfFrom_cons _ _ _ _).mp h
    rw [Memory.lookup] at hb
    split at hb
    · cases hb
      subst k
      exact ⟨hk, hc⟩
    · exact ih hm hb

/-- What a read in the canonical form tells of the list: a byte is listed where the read is not the unlisted one. -/
theorem Memory.lookup_eq_some_of_wf {a : Nat} {b : Byte} {m : Memory} (h : Memory.wf m = true) :
    Memory.lookup a m = some b ↔ a < memSize ∧ b ≠ Memory.unlisted a ∧ Memory.read m a = b := by
  constructor
  · intro hb
    obtain ⟨ha, hne⟩ := Memory.lt_and_ne_unlisted_of_lookup h hb
    exact ⟨ha, hne, by rw [Memory.read, hb]; rfl⟩
  · rintro ⟨-, hne, rfl⟩
    cases hl : Memory.lookup a m with
    | none => exact absurd (by rw [Memory.read, hl]; rfl) hne
    | some c => rw [Memory.read, hl]; rfl

/-- The head of a list in the canonical form is its lowest address, so two lists that look up the same have the same
head. -/
theorem Memory.eq_of_lookup_eq {lo lo' : Nat} {m m' : Memory} (h : Memory.wfFrom lo m = true)
    (h' : Memory.wfFrom lo' m' = true) (heq : ∀ a, Memory.lookup a m = Memory.lookup a m') : m = m' := by
  induction m generalizing lo lo' m' with
  | nil =>
    cases m' with
    | nil => rfl
    | cons e' m' => simpa [Memory.lookup] using heq e'.1
  | cons e m ih =>
    obtain ⟨k, b⟩ := e
    obtain ⟨-, -, -, hm⟩ := (Memory.wfFrom_cons _ _ _ _).mp h
    cases m' with
    | nil => simpa [Memory.lookup] using heq k
    | cons e' m' =>
      obtain ⟨k', b'⟩ := e'
      obtain ⟨-, -, -, hm'⟩ := (Memory.wfFrom_cons _ _ _ _).mp h'
      have hbelow {a : Nat} (ha : a ≤ k) : Memory.lookup a m = none :=
        Memory.lookup_eq_none_of_wfFrom hm (Nat.lt_succ_of_le ha)
      have hbelow' {a : Nat} (ha : a ≤ k') : Memory.lookup a m' = none :=
        Memory.lookup_eq_none_of_wfFrom hm' (Nat.lt_succ_of_le ha)
      obtain rfl : k = k' := by
        rcases Nat.lt_trichotomy k k' with hlt | heqk | hgt
        · simpa [Memory.lookup, hlt.ne', hbelow' hlt.le] using heq k
        · exact heqk
        · simpa [Memory.lookup, hgt.ne', hbelow hgt.le] using heq k'
      obtain rfl : b = b' := by simpa [Memory.lookup] using heq k
      refine congrArg _ (ih hm hm' fun a => ?_)
      rcases eq_or_ne k a with rfl | hne
      · rw [hbelow le_rfl, hbelow' le_rfl]
      · simpa [Memory.lookup, hne] using heq a

/-- Settles O45: in the canonical form the reads fix what is listed. -/
theorem memoryFormUnique : Obligations.MemoryFormUnique := by
  intro m m' hwf hwf' hread
  refine Memory.eq_of_lookup_eq hwf hwf' fun a => Option.ext fun b => ?_
  rw [Memory.lookup_eq_some_of_wf hwf, Memory.lookup_eq_some_of_wf hwf']
  exact and_congr_right fun ha => by rw [hread a ha]

end Sys2Proof.Machine
end

section
/-! Steps that decode to an unknown word, and that a loaded engine always answers (10_state R39, 30_encoding R99). -/

namespace Sys2Proof.Machine

theorem State.frame_advance_report (s : State) (a w : Word) :
    Frame [] noByte [.pc, .diag] s (s.advance.report a w) :=
  (s.frame_advance.mono_noByte (by simp) (by simp)).trans
    ((State.frame_report _ a w).mono_noByte (by simp) (by simp))

/-- Settles O7: the decoder answers the fetched word itself, and the step reports it. -/
theorem unknownWordIsNoOp : Obligations.UnknownWordIsNoOp := by
  intro s w hl hr hpc hd
  obtain ⟨rfl, -⟩ := (unknownSpaceExact _ _).mp hd
  exact ⟨_, step_of_unknown hl hr hpc hd, State.advance_pc_toNat hpc, rfl, s.frame_advance_report _ _⟩

/-- Settles O8: by STATUS, the fetch check and the decoder's answer. -/
theorem loadedStepAnswers : Obligations.LoadedStepAnswers := by
  intro s hl
  cases hs : s.status with
  | halted c => exact ⟨s, step_of_halted hl hs⟩
  | running =>
    rcases Nat.lt_or_ge 0xFFE s.pc.toNat with hpc | hpc
    · exact ⟨_, step_of_not_canFetch hl hs (State.canFetch_eq_false_iff.mpr hpc)⟩
    cases hd : decode (s.fetch s.pc.toNat) with
    | instr i =>
      obtain ⟨t, ht⟩ := exec_next i s.advance
      exact ⟨t, (step_of_instr hl hs hpc hd).trans ht⟩
    | unknown w => exact ⟨_, step_of_unknown hl hs hpc hd⟩

end Sys2Proof.Machine
end

section
/-! SYS, the skips and JP V0 (40_flow R121, R125 to R129), and the key skips (43_keypad_timers R190 to R192). -/

namespace Sys2Proof.Machine

/-- Settles O9: the state after SYS is the state before it. -/
theorem sysIsNoOp : Obligations.SysIsNoOp := fun nnn s => ⟨s, exec_sys nnn s, .refl _ _ _ s⟩

/-- A skip on a condition given as a proposition (40_flow R120). -/
theorem State.skipIf_pc_of_iff (s : State) {c : Bool} {p : Prop} [Decidable p] (h : c = true ↔ p) :
    (s.skipIf c).pc = if p then s.pc + 2 else s.pc :=
  if_congr h rfl rfl

/-- A skip on the negation of a condition. -/
theorem State.skipIf_pc_of_iff_not (s : State) {c : Bool} {p : Prop} [Decidable p] (h : c = true ↔ ¬ p) :
    (s.skipIf c).pc = if p then s.pc else s.pc + 2 :=
  (if_congr h rfl rfl).trans (ite_not _ _ _)

/-- Settles O15: each skip by its condition, with the frame of a write of PC. -/
theorem skipsFollowTheirConditions : Obligations.SkipsFollowTheirConditions := fun x y kk s =>
  ⟨⟨_, exec_seImm x kk s, s.frame_skipIf _, s.skipIf_pc_of_iff beq_iff_eq⟩,
    ⟨_, exec_sneImm x kk s, s.frame_skipIf _, s.skipIf_pc_of_iff_not bne_iff_ne⟩,
    ⟨_, exec_seReg x y s, s.frame_skipIf _, s.skipIf_pc_of_iff beq_iff_eq⟩,
    ⟨_, exec_sneReg x y s, s.frame_skipIf _, s.skipIf_pc_of_iff_not bne_iff_ne⟩⟩

/-- Settles O16: the sum of a 12-bit address and a byte fits 16 bits. -/
theorem jumpAddsV0 : Obligations.JumpAddsV0 := fun nnn s =>
  ⟨_, exec_jpV0 nnn s, jumpSum_toNat nnn (s.getV 0), s.frame_setPc _⟩

/-- Settles O31: the selected key is the one of the low nibble of V[x]. -/
theorem keySkipsTestLowNibble : Obligations.KeySkipsTestLowNibble := by
  intro x s k hk
  have hkey : s.keyAt x = s.key[k.val] := by simp only [State.keyAt, lowNibble_val, hk]
  exact ⟨⟨_, exec_skp x s, s.frame_skipIf _, s.skipIf_pc_of_iff (by rw [hkey])⟩,
    ⟨_, exec_sknp x s, s.frame_skipIf _, s.skipIf_pc_of_iff_not (by rw [hkey, Bool.not_eq_true', Bool.not_eq_true])⟩⟩

end Sys2Proof.Machine
end

section
/-! SUB, SUBN, SHR, SHL and RND (41_alu R149 to R153). -/

namespace Sys2Proof.Machine

theorem byte_sub_toNat (a b : Byte) : (a - b).toNat = (a.toNat + 256 - b.toNat) % 256 := by
  have := b.isLt
  rw [BitVec.toNat_sub]
  omega

theorem flagByte_toNat (f : Bool) : (flagByte f).toNat = f.toNat := by
  cases f <;> rfl

/-- Settles O22: the difference unless the flag overwrites it, and the not-borrow of the old operands. -/
theorem subSetsNotBorrow : Obligations.SubSetsNotBorrow := by
  refine fun x y s => ⟨_, exec_sub x y s, fun hx => ?_, ?_, s.frame_writeResult x _ _⟩
  · rw [State.getV_writeResult_of_ne _ _ _ hx, byte_sub_toNat]
  · rw [State.getV_writeResult_regF, notBorrowOf, flagByte_decide]

/-- Settles O23: as for SUB with the operands exchanged. -/
theorem subnSetsNotBorrow : Obligations.SubnSetsNotBorrow := by
  refine fun x y s => ⟨_, exec_subn x y s, fun hx => ?_, ?_, s.frame_writeResult x _ _⟩
  · rw [State.getV_writeResult_of_ne _ _ _ hx, byte_sub_toNat]
  · rw [State.getV_writeResult_regF, notBorrowOf, flagByte_decide]

/-- The bit SHR shifts out, as a number (41_alu R150). -/
theorem lsbOf_toNat (a : Byte) : (lsbOf a).toNat = a.toNat % 2 :=
  (Nat.toNat_testBit _ _).trans (by rw [pow_zero, Nat.div_one])

/-- The bit SHL shifts out, as a number (41_alu R152). -/
theorem msbOf_toNat (a : Byte) : (msbOf a).toNat = a.toNat / 128 :=
  (Nat.toNat_testBit _ _).trans (Nat.mod_eq_of_lt (by have := a.isLt; omega))

/-- Settles O24: the source of the quirk, its half, and its bit 0 in the flag. -/
theorem shrShiftsRight : Obligations.ShrShiftsRight := by
  rintro x y s src rfl
  refine ⟨_, exec_shr x y s, fun hx => ?_, ?_, s.frame_writeResult x _ _⟩
  · rw [State.getV_writeResult_of_ne _ _ _ hx, State.shiftSource_eq, BitVec.toNat_ushiftRight,
      Nat.shiftRight_eq_div_pow, pow_one]
  · rw [State.getV_writeResult_regF, State.shiftSource_eq, flagByte_toNat, lsbOf_toNat]

/-- Settles O25: the source of the quirk, twice it, and its bit 7 in the flag. -/
theorem shlShiftsLeft : Obligations.ShlShiftsLeft := by
  rintro x y s src rfl
  refine ⟨_, exec_shl x y s, fun hx => ?_, ?_, s.frame_writeResult x _ _⟩
  · rw [State.getV_writeResult_of_ne _ _ _ hx, State.shiftSource_eq, BitVec.toNat_shiftLeft, Nat.shiftLeft_eq, pow_one]
  · rw [State.getV_writeResult_regF, State.shiftSource_eq, flagByte_toNat, msbOf_toNat]

/-- Settles O26: the bits of the masked free byte, whatever it is. -/
theorem rndMasksFreeByte : Obligations.RndMasksFreeByte := by
  refine fun x kk s => ⟨_, exec_rnd x kk s, fun j => ?_, rfl, s.frame_setV_countDraw _ _⟩
  rw [State.countDraw_getV, State.getV_setV_same, BitVec.getLsbD_and, State.randomByte]

end Sys2Proof.Machine
end

section
/-! The key wait and the timers (43_keypad_timers R193 to R196). -/

namespace Sys2Proof.Machine

/-- The first key down in rising order (43_keypad_timers R193). -/
theorem State.lowestKey_eq_some {s : State} {k : Fin 16} (hk : s.key[k.val] = true)
    (hbelow : ∀ j : Fin 16, j.val < k.val → s.key[j.val] = false) : s.lowestKey = some k := by
  rw [State.lowestKey, List.find?_eq_some_iff_getElem]
  refine ⟨hk, k.val, by rw [List.length_finRange]; exact k.isLt, by simp, fun j hj => ?_⟩
  have hlow := hbelow ⟨j, hj.trans k.isLt⟩ hj
  simpa using hlow

/-- Settles O32: the wait by whether a key is down. -/
theorem keyWaitTakesLowestKey : Obligations.KeyWaitTakesLowestKey := by
  refine fun x s => ⟨fun k hk hbelow => ?_, fun hnone => ?_⟩
  · refine ⟨_, exec_ldVxK_of_some x (State.lowestKey_eq_some hk hbelow), ?_, rfl, s.frame_setV_setAwait _ _ _⟩
    rw [State.setAwait_getV, State.getV_setV_same, BitVec.toNat_ofNat]
    exact Nat.mod_eq_of_lt (k.isLt.trans (by decide))
  · exact ⟨_, exec_ldVxK_of_none x (State.lowestKey_eq_none.mpr hnone), rfl, rfl, s.frame_setPc_setAwait _ _⟩

/-- Settles O33: PC put back undoes the advance of the step. -/
theorem keyWaitStepRepeats : Obligations.KeyWaitStepRepeats := by
  intro x s hl hr hpc hd hnone
  have hwait : exec (.ldVxK x) s.advance = .next (s.setAwait true) := by
    rw [exec_ldVxK_of_none (s := s.advance) x (State.lowestKey_eq_none.mpr hnone), State.advance_setPc_back]
  exact ⟨_, (step_of_instr hl hr hpc hd).trans hwait, rfl, s.frame_setAwait true⟩

/-- Settles O34: each instruction is one write with its frame. -/
theorem timerMoves : Obligations.TimerMoves := fun x s =>
  ⟨⟨_, exec_ldVxDT x s, s.getV_setV_same x _, s.frame_setV x _⟩,
    ⟨_, exec_ldDTVx x s, rfl, s.frame_setDt _⟩,
    ⟨_, exec_ldSTVx x s, rfl, s.frame_setSt _⟩⟩

end Sys2Proof.Machine
end

section
/-! ADD I, Vx and LD F, Vx (44_index_memory R212, R213). -/

namespace Sys2Proof.Machine

theorem indexSum_toNat (i : Word) (b : Byte) : (i + zextByte b).toNat = (i.toNat + b.toNat) % 65536 := by
  rw [BitVec.toNat_add, zextByte_toNat]

/-- Settles O38: the frame and the flag of ADD I under both settings of the quirk. -/
theorem addIndexAddsRegister : Obligations.AddIndexAddsRegister := by
  intro x s
  have hframe := s.frame_setI_addIFlag (s.i + zextByte (s.getV x)) (indexOverflowOf s.i (s.getV x))
  refine ⟨fun hon => ?_, fun hoff => ?_⟩
  · rw [if_pos hon] at hframe
    refine ⟨_, exec_addI x s, indexSum_toNat _ _, ?_, hframe⟩
    rw [State.getV_addIFlag, if_pos ⟨rfl, hon⟩, indexOverflowOf, flagByte_decide]
  · rw [hoff, if_neg nofun] at hframe
    exact ⟨_, exec_addI x s, indexSum_toNat _ _, hframe⟩

/-- A glyph address fits I (20_memory R69). -/
theorem glyphAddr_toNat (d : Fin 16) : (BitVec.ofNat 16 (glyphAddr d)).toNat = Config.fontBase.val + 5 * d.val := by
  rw [BitVec.toNat_ofNat, glyphAddr]
  exact Nat.mod_eq_of_lt (by omega)

/-- Settles O39: FONT_BASE is at most 0x1B0, so the last glyph ends at 0x1FF at most. -/
theorem loadFontPointsAtGlyph : Obligations.LoadFontPointsAtGlyph := by
  intro x s
  have hi : (s.setI (BitVec.ofNat 16 (glyphAddr (lowNibble (s.getV x))))).i.toNat =
      Config.fontBase.val + 5 * ((s.getV x).toNat % 16) := by
    rw [State.setI_i, glyphAddr_toNat, lowNibble_val]
  refine ⟨_, exec_ldF x s, hi, ?_, s.frame_setI _⟩
  rw [hi]
  omega

end Sys2Proof.Machine
end

section
/-! What reset and load leave (10_state R43, 70_reset_and_hazards R271 to R276). -/

namespace Sys2Proof.Machine

theorem State.getV_resetWith (c : Cfg) (r : Reg) : (State.resetWith c).getV r = 0 :=
  Vector.getElem_replicate _

/-- Outside the font an unlisted address reads as zero (20_memory R61). -/
theorem Memory.unlisted_outside_font {a : Nat} (h : a < Config.fontBase.val ∨ Config.fontBase.val + 80 ≤ a) :
    Memory.unlisted a = 0 := by
  unfold Memory.unlisted
  split
  · split
    · exact List.getD_eq_default _ _ (by rw [show fontData.length = 80 from rfl]; omega)
    · rfl
  · rfl

/-- Settles O54: every piece of state that `resetWith` leaves, or the refusal of an illegal configuration. -/
theorem resetValues : Obligations.ResetValues := by
  intro c s
  constructor
  · intro hlo hhi
    exact ⟨_, s.doReset_of_legal (cfgLegal_iff.mpr ⟨hlo, hhi⟩), State.getV_resetWith c, rfl, rfl, rfl,
      fun _ => Vector.getElem_replicate _, rfl, rfl, fun _ => Memory.unlisted_font,
      fun _ => Memory.unlisted_outside_font, Display.get_blank, fun _ => Vector.getElem_replicate _, rfl, rfl, rfl, rfl,
      rfl⟩
  · intro hout
    refine s.doReset_of_not_legal (Bool.eq_false_iff.mpr fun hc => ?_)
    obtain ⟨hlo, hhi⟩ := cfgLegal_iff.mp hc
    omega

/-- The state after an accepted load (70_reset_and_hazards R273). -/
theorem State.frame_load (s : State) (a : Nat) (image : List Byte) :
    Frame [] (fun c => a ≤ c ∧ c < a + image.length) [.loaded] s
      { s with mem := Memory.writeBytes s.mem a image, loaded := true } where
  regsSame _ _ := rfl
  bytesSame c hc := by rw [Memory.read_writeBytes, if_neg hc]
  partsSame p hp := by
    cases p with
    | loaded => exact absurd hp (by decide)
    | _ => rfl

theorem Memory.read_writeBytes_of_lt (m : Memory) (a : Nat) {image : List Byte} {j : Nat} (hj : j < image.length) :
    Memory.read (Memory.writeBytes m a image) (a + j) = image.getD j 0 := by
  rw [Memory.read_writeBytes, if_pos (by omega), Nat.add_sub_cancel_left]

/-- Settles O55: the copy with its frame, the rejection without a change, and the refusal of a second load. -/
theorem loadCopiesImage : Obligations.LoadCopiesImage := by
  refine fun s image => ⟨fun hl hmin hmax => ?_, fun hl hbad => ?_, State.doLoad_of_loaded image⟩
  · refine ⟨_, State.doLoad_of_valid hl (imageValid_iff.mpr ⟨hmin, hmax⟩), rfl,
      fun j hj => Memory.read_writeBytes_of_lt _ _ hj, s.frame_load _ image, fun hinv => hinv.unloadedPc hl⟩
  · refine State.doLoad_of_not_valid hl (Bool.eq_false_iff.mpr fun hv => ?_)
    obtain ⟨hmin, hmax⟩ := imageValid_iff.mp hv
    omega

end Sys2Proof.Machine
end
